-- ==== Sys2Proof/Word.lean ====
section
/-! DEFINITION. The word types of the part: bytes of the serial ports, 16-bit fields, rack time (R1). -/

namespace Sys2Proof

/-- One byte of a request, an answer, a frame or the calibration store image. -/
abbrev Byte := BitVec 8

/-- A two-byte request operand. -/
abbrev Half := BitVec 16

/-- A four-byte request operand. -/
abbrev Full := BitVec 32

/-- Rack time (R1): a 32-bit count of milliseconds that wraps. -/
abbrev Time := BitVec 32

/-- Sparse storage of numbered elements: strictly rising numbers, none at its default value
(`Table.wf` of Machine/Ops.lean). -/
abbrev Table (α : Type) := List (Nat × α)

end Sys2Proof
end

