-- ==== Sys2Proof/Config.lean ====
section
/-! DEFINITION. What the manual leaves open, as constants with no body: a statement holds for every value of
them. Each is named by a row of notes/assumptions. -/

namespace Sys2Proof.Config

/-- The lit dots of the 192 internal ROM glyphs, by code, row (0 at the top) and column (0 at the left). R158
puts the patterns outside the manual, but for the space (notes/assumptions/17.md). -/
opaque romDot : Byte → Nat → Nat → Bool

/-- Which of several events that fall due at one rack time is taken next: a free choice for every turn
(notes/assumptions/2.md). -/
opaque pick : Nat → Nat

/-- Whether the Prompt Unit of bay A asks first for a freed place that both bays wait for (R145 leaves the
order open; notes/assumptions/10.md). -/
opaque bayAFirst : Nat → Bool

/-- Whether a frame from the unit is on the line of a network port at a moment at which the port would start a first
attempt (R60, R67): its start is no event of the part (notes/assumptions/8.md). -/
opaque unitOnLine : Nat → Bool

/-- Whether a frame from the unit holds back the next attempt of a frame between attempts, by a place in the run and the
code of the bay (R60, R73, R74; notes/assumptions/8.md). -/
opaque unitDelays : Nat → Nat → Bool

/-- How many writes of a save the calibration store acknowledges in a millisecond (R211 gives only the limit of 20 ms;
notes/assumptions/41.md). -/
opaque storeAcks : Nat → Nat

end Sys2Proof.Config
end

