-- ==== Sys2Proof/Syntax.lean ====
section
/-! DEFINITION. The commands of the part, one constructor of `Instr` for each row of spec/opcode_table.json,
with the operands its rule gives it. A request carries its port, tag and operand length (`Req`) and its operands
at the widths of the code table of R197 (notes/assumptions/6.md). An event carries what happened outside the part. -/

namespace Sys2Proof

/-- The two bays (R3). -/
inductive Bay where
  | a | b
  deriving DecidableEq, Repr

/-- The three masters; each owns one port (MPA, MPB, MPS). -/
inductive Master where
  | bsqA | bsqB | ssv
  deriving DecidableEq, Repr

/-- The operator keys other than ABORT. -/
inductive Key where
  | yes | no | again
  deriving DecidableEq, Repr

/-- The four outcomes of a transmission attempt (R60). -/
inductive TxOutcome where
  | acked | arbLost | noAck | busError
  deriving DecidableEq, Repr

/-- Eight bytes in order: a frame payload, a mask, the rows of a glyph. -/
structure B8 where
  b0 : Byte := 0
  b1 : Byte := 0
  b2 : Byte := 0
  b3 : Byte := 0
  b4 : Byte := 0
  b5 : Byte := 0
  b6 : Byte := 0
  b7 : Byte := 0
  deriving DecidableEq, Repr

/-- The head of a select period (R190, R207): the port, the tag byte and the operand length *n*. -/
structure Req where
  port : Master
  tag  : Byte
  len  : Byte
  deriving DecidableEq, Repr

/-- A frame as a bay's port hands it on (R85): foreign (extended or remote), or standard with its data bytes. -/
structure RxFrame where
  foreign : Bool
  ident   : BitVec 11
  data    : List Byte
  deriving DecidableEq, Repr

/-- How the power-on load ends (R209). `image` carries the bytes read when all 41 were acknowledged. -/
inductive LoadEnd where
  | image (bytes : List Byte)
  | noAck
  | timeLimit
  deriving DecidableEq, Repr

/-- How a save ends (R211). `readBack` carries the bytes of the verify when all 41 were acknowledged. -/
inductive SaveEnd where
  | readBack (bytes : List Byte)
  | noAck
  | timeLimit
  deriving DecidableEq, Repr

/-- The operands of START (R12): the length byte of the serial, its characters, the plan tag and the overrides. -/
structure StartOps where
  serialLen     : Byte
  serial        : List Byte
  planTag       : Half
  marginalFails : Option Bool
  unknownFails  : Option Bool
  operatorAbort : Option Bool
  deriving DecidableEq, Repr

/-- The operands of BAY SETUP WRITE (R30), before any clamp. -/
structure SetupOps where
  clampTimeout   : Half
  contactTimeout : Half
  powerSettle    : Half
  powerOffSettle : Half
  reservedPins   : BitVec 48
  bitRate        : Half
  loadLimit      : Byte
  bucketDepth    : Half
  w2             : Byte
  w1             : Byte
  w0             : Byte
  retryLimit     : Byte
  ageLimit       : Half
  holdLimit      : Half
  alertPage      : Half
  mirrorTx       : Byte
  mirrorRx       : Byte
  marginalFails  : Byte
  unknownFails   : Byte
  operatorAbort  : Byte
  deriving DecidableEq, Repr

/-- The operands of FRAME WRITE after the index (R55, R57), before any clamp. -/
structure FrameOps where
  valid    : Byte
  members  : Byte
  ident    : Half
  length   : Byte
  payload  : B8
  cls      : Byte
  period   : Half
  phase    : Half
  gate     : Byte
  alive    : Option (Byte × Byte)
  checksum : Option Byte
  mirror   : Byte
  deriving DecidableEq, Repr

/-- The operands of EXPECT (R92), before any clamp. -/
structure ExpectOps where
  ident    : Half
  gapLow   : Half
  gapHigh  : Half
  mask     : B8
  value    : B8
  required : Byte
  deriving DecidableEq, Repr

/-- The operands of MEASURE (R109), before any clamp. `limit` 0xFFFF means no limit. -/
structure MeasureOps where
  range   : Byte
  channel : Byte
  samples : Byte
  settle  : Half
  limit   : Half
  deriving DecidableEq, Repr

/-- The operands of LIMIT WRITE after the index (R135); the three bounds are signed. -/
structure LimitOps where
  valid : Byte
  range : Byte
  low   : Full
  high  : Full
  guard : Full
  deriving DecidableEq, Repr

/-- The operands of PROMPT (R177), before any clamp. `page` 0xFFFF means no page. -/
structure PromptOps where
  promptId : Byte
  kind     : Byte
  allowed  : Byte
  timeout  : Full
  page     : Half
  blink    : Byte
  deriving DecidableEq, Repr

/-- The commands, one for each row of spec/opcode_table.json. -/
inductive Instr where
  -- power, store and framing events
  | powerOn (selA selB selS : Bool)
  | rstnLow
  | endOfLoad (how : LoadEnd)
  | calSaveEnd (how : SaveEnd)
  | selRisesEarly (port : Master)
  | operandLengthOver250 (r : Req) (code : Byte)
  | unknownRequest (r : Req) (code : Byte)
  -- requests of the Master Port Interface
  | statusRead (r : Req)
  | attentionRead (r : Req)
  | noticePost (r : Req) (target code : Byte)
  -- bay requests
  | clamp (r : Req)
  | contact (r : Req)
  | power (r : Req)
  | start (r : Req) (o : StartOps)
  | finish (r : Req)
  | unload (r : Req)
  | abort (r : Req)
  | release (r : Req)
  | bayReset (r : Req)
  | baySetupWrite (r : Req) (o : SetupOps)
  | baySetupRead (r : Req)
  | bayRead (r : Req)
  -- source and route requests
  | sourceClaim (r : Req) (source : Byte)
  | sourceFree (r : Req) (source : Byte)
  | setSpeed (r : Req) (source : Byte) (v k : Half)
  | setRpm (r : Req) (source : Byte) (rpm : Half) (p : Byte)
  | setFrequency (r : Req) (source : Byte) (f : Full)
  | setDuty (r : Req) (source : Byte) (d : Half)
  | setLevel (r : Req) (source : Byte) (mv : Full)
  | sourceRead (r : Req) (source : Byte)
  | routeClose (r : Req) (source pin : Byte)
  | routeOpen (r : Req) (source pin : Byte)
  -- network requests
  | frameWrite (r : Req) (index : Byte) (o : FrameOps)
  | frameRead (r : Req) (index : Byte)
  | setPayload (r : Req) (index offset : Byte) (bytes : List Byte)
  | send (r : Req) (index count : Byte)
  | netResume (r : Req)
  | netRead (r : Req)
  -- response requests
  | expect (r : Req) (o : ExpectOps)
  | unexpect (r : Req) (ident : Half)
  | responseRead (r : Req) (selector : Byte) (which : Half)
  | checkResponse (r : Req) (selector : Byte) (which : Half)
  | monitorPop (r : Req)
  -- measurement requests
  | meuClaim (r : Req)
  | meuRelease (r : Req)
  | measure (r : Req) (o : MeasureOps)
  | resultRead (r : Req)
  | meuRead (r : Req)
  | calWrite (r : Req) (range : Byte) (gain offset : Full)
  | calRead (r : Req) (range : Byte)
  | limitWrite (r : Req) (index : Byte) (o : LimitOps)
  | limitRead (r : Req) (index : Byte)
  -- verdict log requests
  | noteStep (r : Req) (verdict : Byte) (value : Option Full)
  | logPop (r : Req)
  | logSetup (r : Req) (threshold : Byte)
  | statsRead (r : Req) (first count clear : Byte)
  -- display requests
  | setCursor (r : Req) (address : Half)
  | displayWrite (r : Req) (codes : List Byte)
  | displayRead (r : Req) (count : Byte)
  | attrSet (r : Req) (flag count : Byte)
  | attrClear (r : Req) (flag count : Byte)
  | clearArea (r : Req) (count : Half)
  | setWindow (r : Req) (start : Half)
  | stationScreen (r : Req) (on : Byte) (start : Half)
  | glyphLoad (r : Req) (code : Byte) (rows : B8)
  -- prompt requests
  | prompt (r : Req) (o : PromptOps)
  | promptCancel (r : Req) (promptId : Option Byte)
  | answerRead (r : Req)
  | promptRead (r : Req)
  -- store and rack requests
  | calSave (r : Req)
  | rackReset (r : Req)
  -- fixture events
  | unitPresentRising (bay : Bay)
  | unitPresentFalling (bay : Bay)
  | clampClosedRising (bay : Bay)
  | clampClosedFalling (bay : Bay)
  | contactMadeRising (bay : Bay)
  | contactMadeFalling (bay : Bay)
  | interlockOkFalling (bay : Bay)
  | emergencyActive (first : Bay)
  | emergencyInactive
  -- events of time and of the units
  | fixtureTimerExpiry (bay : Bay)
  | routeTransitionComplete (source : Fin 8) (bay : Bay) (pin : Fin 48)
  | pulsePeriodEnd (source : Fin 8)
  | frameDue (bay : Bay) (index : Byte)
  | tokenAccrual (bay : Bay)
  | attemptRestart (bay : Bay)
  | attemptOutcome (bay : Bay) (outcome : TxOutcome)
  | frameReceived (bay : Bay) (frame : RxFrame)
  | agingPass
  | holdTimerExpiry
  | senseConnectComplete
  | senseDisconnectComplete
  | settleEnd
  | sampleTaken (code : Half)
  | blinkPhaseChange
  | clearBlock (master : Master)
  | keyPress (bay : Bay) (key : Key)
  | promptTimerExpiry (bay : Bay)
  | abortKey (bay : Bay)
  | interlockOkRising (bay : Bay)
  | supplyLoss
  deriving DecidableEq, Repr

end Sys2Proof
end

