-- ==== Sys2Proof/Machine/State.lean ====
section
/-! DEFINITION. The state of the part as plain data, block by block as the manual divides it, the reset state and
the reasons a step can stop. Field docstrings name the rule of spec/ that gives the field. -/

namespace Sys2Proof.Machine

/-- One value for each bay. -/
structure Per (α : Type) where
  a : α
  b : α
  deriving DecidableEq, Repr

/-- One value for each master. -/
structure Tri (α : Type) where
  bsqA : α
  bsqB : α
  ssv  : α
  deriving DecidableEq, Repr

/-! ### Bay Controllers (chapter 1) -/

/-- The eleven bay states, in the order of R4. -/
inductive BayState where
  | vacant | loaded | clamping | clamped | contacting | contacted | powering | powered | testing | closing | safe
  deriving DecidableEq, Repr

/-- The phases of CLOSING (R4, R16). -/
inductive Phase where
  | powerDown | retract | unclamp
  deriving DecidableEq, Repr

/-- The causes of SAFE (R21). -/
inductive SafeCause where
  | unitLost | clampLost | contactLost | interlock | emergency | fixtureTimeout
  deriving DecidableEq, Repr

/-- The cause field of a UNIT record (R27, R142). -/
inductive UnitCause where
  | safe (c : SafeCause)
  | bayReset
  deriving DecidableEq, Repr

/-- The unit verdicts (R26). -/
inductive UnitVerdict where
  | pass | passMarginal | fail | aborted
  deriving DecidableEq, Repr

/-- The seven lamp states (R28). -/
inductive Lamp where
  | off | busy | pass | passMarginal | fail | aborted | safe
  deriving DecidableEq, Repr

/-- What a running fixture timer times (R5). -/
inductive TimerPurpose where
  | clampFeedback | contactFeedback | powerSettle | powerOffSettle | contactRelease | clampRelease
  deriving DecidableEq, Repr

/-- A running fixture timer (R5). -/
structure FixtureTimer where
  expiry  : Time
  purpose : TimerPurpose
  deriving DecidableEq, Repr

/-- The policy flags of a unit (R12, R25). -/
structure Policy where
  marginalFails : Bool := false
  unknownFails  : Bool := false
  operatorAbort : Bool := true
  deriving DecidableEq, Repr

/-- The four step counts (R25). -/
structure Counts where
  pass     : Nat := 0
  marginal : Nat := 0
  fail     : Nat := 0
  error    : Nat := 0
  deriving DecidableEq, Repr

/-- The Bay Context of R25. -/
structure BayCtx where
  state       : BayState
  phase       : Option Phase := none
  safeCause   : Option SafeCause := none
  serial      : Option (List Byte) := none
  planTag     : Option Half := none
  unitSeq     : Half := 0
  startTime   : Option Time := none
  policy      : Policy := {}
  counts      : Counts := {}
  unknownSeen : Bool := false
  uncal       : Bool := false
  unitVerdict : Option UnitVerdict := none
  unitOwed    : Bool := false
  deriving DecidableEq, Repr

/-- The fixture outputs of a bay (R4). -/
structure Outputs where
  clamp    : Bool := false
  contact  : Bool := false
  dutPower : Bool := false
  deriving DecidableEq, Repr

/-- A Bay Controller: its context, outputs, lamp and fixture timer. -/
structure BayCtl where
  ctx   : BayCtx
  out   : Outputs := {}
  lamp  : Lamp := .off
  timer : Option FixtureTimer := none
  deriving DecidableEq, Repr

/-- The levels of a bay's four fixture inputs. -/
structure Inputs where
  unitPresent : Bool := false
  clampClosed : Bool := false
  contactMade : Bool := false
  interlockOk : Bool := false
  deriving DecidableEq, Repr

/-- The Bay Setup record with the defaults of R30. -/
structure Setup where
  clampTimeout   : Nat := 2000
  contactTimeout : Nat := 1500
  powerSettle    : Nat := 300
  powerOffSettle : Nat := 200
  reservedPins   : BitVec 48 := 0xF
  bitRate        : Nat := 500
  loadLimit      : Nat := 60
  bucketDepth    : Nat := 2000
  w2             : Nat := 6
  w1             : Nat := 3
  w0             : Nat := 1
  retryLimit     : Nat := 3
  ageLimit       : Nat := 2000
  holdLimit      : Nat := 250
  alertPage      : Nat := 0
  mirrorTx       : Bool := false
  mirrorRx       : Bool := false
  marginalFails  : Bool := false
  unknownFails   : Bool := false
  operatorAbort  : Bool := true
  deriving DecidableEq, Repr

/-! ### Source Pool and Pin Matrix (chapter 2) -/

/-- The modes of a pulse source (R33). -/
inductive SourceMode where
  | stopped | speed | rpm | frequency | pwm
  deriving DecidableEq, Repr

/-- What the last setting request did with its operands (R33, R49). -/
inductive RangeFlag where
  | none | aboveRange | belowRange
  deriving DecidableEq, Repr

/-- A Source record (R33) with the generator of a pulse source (R45). `generator` is the period and high time
of the period now on the output, absent while the output is held or the source is parked. The values given here
are those of R38. -/
structure Source where
  owner       : Option Bay := none
  freeing     : Bool := false
  mode        : SourceMode := .stopped
  periodTicks : Nat := 0
  highTicks   : Nat := 0
  duty        : Nat := 500
  levelCode   : Nat := 0
  parked      : Bool := true
  rangeFlag   : RangeFlag := .none
  generator   : Option (Nat × Nat) := Option.none
  deriving DecidableEq, Repr

/-- The state of a route record with its transition end (R40). -/
inductive RouteState where
  | closing (ends : Time)
  | closed
  | opening (ends : Time)
  deriving DecidableEq, Repr

/-- A record of the Route Table (R40). -/
structure Route where
  source : Fin 8
  bay    : Bay
  pin    : Fin 48
  state  : RouteState
  deriving DecidableEq, Repr

/-! ### Network Stimulus Engine (chapter 3) -/

/-- The four transmit classes (R55). -/
inductive Cls where
  | c0 | c1 | c2 | c3
  deriving DecidableEq, Repr

/-- A Frame Table entry (R55). The enumerations are held as the codes of R207, because an entry that is not
valid is stored with its fields as given (R57). R82 resets an entry to not valid with all fields 0; that *alive* and
*checksum* are then absent, and not byte position 0, is the model's choice (notes/assumptions/44.md). -/
structure FrameDef where
  valid    : Bool := false
  members  : Byte := 0
  ident    : Nat := 0
  length   : Nat := 0
  payload  : B8 := {}
  cls      : Byte := 0
  period   : Nat := 0
  phase    : Nat := 0
  gate     : Byte := 0
  alive    : Option (Byte × Byte) := none
  checksum : Option Byte := none
  mirror   : Bool := false
  deriving DecidableEq, Repr

/-- The runtime record of an entry for a bay (R56). -/
structure Runtime where
  nextDue    : Option Time := none
  queued     : Bool := false
  aliveCount : Nat := 0
  repeatLeft : Nat := 0
  deriving DecidableEq, Repr

/-- The class queues of a bay, head first (R65). -/
structure Queues where
  q3 : List Nat := []
  q2 : List Nat := []
  q1 : List Nat := []
  q0 : List Nat := []
  deriving DecidableEq, Repr

/-- The states of a network port (R61). -/
inductive PortState where
  | off | active | faulted
  deriving DecidableEq, Repr

/-- The frame being sent (R61). `onLine` says whether an attempt is on the line, `arbLost` whether the attempt to
come resumes a lost arbitration (R74), `stale` whether the runtime record was reset since the first attempt (R80). -/
structure Current where
  entry     : Nat
  cls       : Cls
  attempts  : Nat
  ident     : Nat
  bytes     : List Byte
  onLine    : Bool
  arbLost   : Bool
  finishing : Bool
  stale     : Bool
  deriving DecidableEq, Repr

/-- A bay's part of the engine: the port record of R61, the class queues and the runtime records. `lineBusy` is
set while a lost attempt waits for the end of the unit's frame that won the line (R74), `accruedAt` is the rack time of the last accrual. -/
structure Net where
  portState  : PortState := .off
  bitRate    : Nat := 500
  tokens     : Int := 0
  fails      : Nat := 0
  curClass   : Cls := .c2
  credit     : Nat := 6
  current    : Option Current := none
  lineBusy   : Bool := false
  accruedAt  : Time := 0
  queues     : Queues := {}
  runtime    : Table Runtime := []
  deriving DecidableEq, Repr

/-! ### Response Monitor (chapter 4) -/

/-- The expectation fields of a PINNED entry (R83). -/
structure Expectation where
  gapLow   : Nat
  gapHigh  : Nat
  mask     : B8
  value    : B8
  required : Bool
  deriving DecidableEq, Repr

/-- The last frame received for a key (R83): payload, length and rack time, absent together. -/
structure LastFrame where
  payload : B8
  length  : Nat
  seen    : Time
  deriving DecidableEq, Repr

/-- A Response Table entry (R83): PINNED when it has an expectation, LEARNED otherwise. `gaps` is the shortest
and longest spacing. -/
structure Resp where
  bay         : Bay
  ident       : Nat
  expectation : Option Expectation
  last        : Option LastFrame := none
  count       : Nat := 0
  gaps        : Option (Nat × Nat) := none
  mismatch    : Nat := 0
  deriving DecidableEq, Repr

/-- The direction of a monitor record (R98). -/
inductive Direction where
  | tx | rx
  deriving DecidableEq, Repr

/-- A record of the Monitor Queue (R98). -/
structure MonRec where
  direction : Direction
  bay       : Bay
  ident     : Nat
  data      : List Byte
  time      : Time
  deriving DecidableEq, Repr

/-- The Monitor Queue, head first, and the monitor drop count (R98). -/
structure Monitor where
  queue : List MonRec := []
  drops : Nat := 0
  deriving DecidableEq, Repr

/-! ### Measurement Unit (chapters 5 and 6) -/

/-- The five measurement ranges. -/
inductive Range where
  | v2 | v20 | il | ih | lum
  deriving DecidableEq, Repr

/-- Claim priorities (R101). -/
inductive Priority where
  | normal | urgent
  deriving DecidableEq, Repr

/-- A claim record with the fields its state needs (R101). `limit` is the hold limit read at the grant (R102). -/
inductive Claim where
  | none
  | waiting (priority : Priority) (claimTime : Time)
  | holding (priority : Priority) (grantTime : Time) (limit : Nat) (releasePending : Bool)
  | revoking (priority : Priority) (grantTime : Time) (limit : Nat) (releasePending : Bool)
  deriving DecidableEq, Repr

/-- The phases of a measurement (R111); `settle` holds the rack time at which it ends. -/
inductive MeasPhase where
  | connect
  | settle (ends : Time)
  | sampling
  deriving DecidableEq, Repr

/-- The phase a measurement is in or had reached (R111, R116). -/
inductive PhaseName where
  | connect | settle | sampling
  deriving DecidableEq, Repr

/-- The measurement in flight (R110). -/
structure Measurement where
  requester : Master
  bay       : Bay
  range     : Range
  channel   : Nat
  samples   : Nat
  settle    : Nat
  limit     : Option Nat
  phase     : MeasPhase
  codes     : List Half
  deriving DecidableEq, Repr

/-- The state of the sense connection record (R112). -/
inductive SenseState where
  | connecting (ends : Time)
  | connected
  | disconnecting (ends : Time)
  deriving DecidableEq, Repr

/-- The sense connection record (R112). `target` is absent in the record of power-on and rack reset, which opens
every sense relay and names no pin (notes/assumptions/16.md). -/
structure Sense where
  target : Option (Bay × Nat)
  state  : SenseState
  deriving DecidableEq, Repr

/-- Step verdicts (R128, R141). -/
inductive StepVerdict where
  | pass | marginal | fail | error
  deriving DecidableEq, Repr

/-- The flags a result may carry (R116). -/
structure ResultFlags where
  clipped : Bool := false
  sat     : Bool := false
  uncal   : Bool := false
  deriving DecidableEq, Repr

/-- What a completed or aborted measurement leaves in the slot (R116). -/
inductive ResultStatus where
  | done (value : Int) (flags : ResultFlags) (verdict : Option StepVerdict) (stepIndex : Option Nat)
  | aborted (phase : PhaseName)
  deriving DecidableEq, Repr

/-- A result (R116). -/
structure Result where
  bay     : Bay
  range   : Range
  channel : Nat
  samples : Nat
  settle  : Nat
  limit   : Option Nat
  status  : ResultStatus
  time    : Time
  deriving DecidableEq, Repr

/-- The Measurement Unit: claims, the claim queue in the order of first claims (R104), the hold timer's expiry
(R102), the measurement in flight, the sense connection and the result slots. -/
structure Meu where
  claims    : Tri Claim
  waiters   : List Master
  holdTimer : Option Time
  inFlight  : Option Measurement
  sense     : Option Sense
  slots     : Tri (Option Result)
  deriving DecidableEq, Repr

/-- A calibration record with its default (R130, R139). -/
structure CalRec where
  gain   : Nat := 16384
  offset : Int := 0
  deriving DecidableEq, Repr

/-- The Calibration Set by position (R130) and the UNCAL flag (R138). -/
structure Cal where
  recs  : Table CalRec := []
  uncal : Bool := true
  deriving DecidableEq, Repr

/-- A limit record with the fields of one that is not valid (R134). -/
structure LimitRec where
  valid : Bool := false
  range : Range := .v2
  low   : Int := 0
  high  : Int := 0
  guard : Nat := 0
  deriving DecidableEq, Repr

/-! ### Verdict Log (chapter 7) -/

/-- The sources of a STEP record (R141). -/
inductive StepSource where
  | measure | response | prompt | sequencer
  deriving DecidableEq, Repr

/-- The flags of a STEP record (R141). -/
structure StepFlags where
  clipped   : Bool := false
  sat       : Bool := false
  uncal     : Bool := false
  timeout   : Bool := false
  neverSeen : Bool := false
  tooFast   : Bool := false
  tooSlow   : Bool := false
  silent    : Bool := false
  mismatch  : Bool := false
  deriving DecidableEq, Repr

/-- A STEP record (R141). -/
structure StepRec where
  bay       : Bay
  unitSeq   : Half
  stepIndex : Nat
  source    : StepSource
  verdict   : StepVerdict
  value     : Option Int
  limit     : Option Nat
  promptId  : Option Byte
  flags     : StepFlags
  time      : Time
  deriving DecidableEq, Repr

/-- A UNIT record (R142). -/
structure UnitRec where
  bay      : Bay
  unitSeq  : Half
  serial   : List Byte
  planTag  : Half
  verdict  : UnitVerdict
  counts   : Counts
  duration : Time
  cause    : Option UnitCause
  uncal    : Bool
  unknown  : Bool
  time     : Time
  deriving DecidableEq, Repr

/-- A record of the Verdict Log (R140). -/
inductive LogRec where
  | step (r : StepRec)
  | unit (r : UnitRec)
  deriving DecidableEq, Repr

/-- What a reservation stands for (R143): a bay's UNIT record, the STEP record of its limit measurement, the STEP
record of its active VISUAL prompt. -/
inductive Holder where
  | unit (bay : Bay)
  | measure (bay : Bay)
  | prompt (bay : Bay)
  deriving DecidableEq, Repr

/-- The Verdict Log: records oldest first (R140), the reservation list (R143), *steps_written* (R148), the log
threshold (R152). -/
structure Vlg where
  log          : List LogRec := []
  reservations : List Holder := []
  stepsWritten : Per Nat := ⟨0, 0⟩
  threshold    : Nat := 1
  deriving DecidableEq, Repr

/-! ### Operator Display Controller (chapter 8) -/

/-- The attribute set of a cell (R157). -/
structure Attr where
  blink     : Bool := false
  inverse   : Bool := false
  underline : Bool := false
  deriving DecidableEq, Repr

/-- The display memory, user glyphs, station screen and blink phase. An unlisted cell holds code 0x20 and no
attribute, an unlisted user glyph is blank (R176). `screen` is the start of the station screen while it is ON. -/
structure Odc where
  codes   : List Host.Cell := []
  attrs   : Table Attr := []
  glyphs  : Table B8 := []
  screen  : Option Nat := none
  blinkOn : Bool := true
  deriving DecidableEq, Repr

/-- A CLEAR AREA in progress (R164): next cell in the sender's addressing, cells left, rack time of the next
block. -/
structure Clear where
  next : Nat
  left : Nat
  due  : Time
  deriving DecidableEq, Repr

/-- A master's access record (R164). -/
structure Access where
  cursor : Nat := 0
  latch  : Byte := 0x20
  clear  : Option Clear := none
  deriving DecidableEq, Repr

/-- A bay's window record (R171). -/
structure Window where
  start       : Nat := 0
  savedStart  : Option Nat := none
  promptBlink : Bool := false
  safeBlink   : Bool := false
  deriving DecidableEq, Repr

/-! ### Prompt Unit (chapter 9) -/

/-- Prompt kinds (R177). -/
inductive PromptKind where
  | acknowledge | choice | visual
  deriving DecidableEq, Repr

/-- The keys a prompt allows (R177). -/
structure KeySet where
  yes   : Bool
  no    : Bool
  again : Bool
  deriving DecidableEq, Repr

/-- A prompt record with its poster (R177). -/
structure Prompt where
  promptId : Byte
  kind     : PromptKind
  allowed  : KeySet
  timeout  : Nat
  page     : Option Nat
  blink    : Bool
  poster   : Master
  deriving DecidableEq, Repr

/-- The front place (R178). -/
inductive Front where
  | empty
  | pending (p : Prompt)
  | active (p : Prompt) (since : Time) (expiry : Option Time)
  deriving DecidableEq, Repr

/-- Answers (R184). -/
inductive Reply where
  | yes | no | again | timeout | cancelled
  deriving DecidableEq, Repr

/-- The content of an answer slot (R184). -/
structure AnswerSlot where
  promptId  : Byte
  kind      : PromptKind
  poster    : Master
  answer    : Reply
  elapsed   : Nat
  stepIndex : Option Nat
  missed    : Nat
  deriving DecidableEq, Repr

/-- A bay's Prompt Unit: front place, waiting list oldest first, answer slot. -/
structure Pru where
  front   : Front := .empty
  waiting : List Prompt := []
  slot    : Option AnswerSlot := none
  deriving DecidableEq, Repr

/-! ### Master Port Interface (chapter 10) and Calibration Store Interface (chapter 11) -/

/-- The edge causes of R198. -/
inductive EdgeCause where
  | safe | preempt | result | prompt | netFault | bayState | store
  deriving DecidableEq, Repr

/-- The sub-detail of RESULT (R198). -/
inductive Sub where
  | none | complete | grant
  deriving DecidableEq, Repr

/-- An edge entry of an attention set (R199). -/
structure Edge where
  cause : EdgeCause
  bay   : Option Bay
  sub   : Sub
  deriving DecidableEq, Repr

/-- A full notice slot (R203). -/
structure Notice where
  sender : Master
  code   : Byte
  merged : Nat
  deriving DecidableEq, Repr

/-- What a master's attention set stores: its edge entries in delivery order (R201) and its full notice slots in
the order they were filled (R203). The level entries follow the log and the Monitor Queue. -/
structure Attn where
  edges   : List Edge := []
  notices : List Notice := []
  deriving DecidableEq, Repr

/-- Store states (R208). -/
inductive StoreState where
  | loading | ready | saving | fault
  deriving DecidableEq, Repr

/-- A save in progress: the buffer, an image of 41 bytes (R210), how many of its writes the store has acknowledged, and
the rack time at which the present write was sent (R211). -/
structure Save where
  buffer  : List Byte
  written : Nat
  sentAt  : Time
  deriving DecidableEq, Repr

/-- The store state, and the save in progress while SAVING (R208, R210). -/
structure Store where
  state : StoreState := .loading
  save  : Option Save := none
  deriving DecidableEq, Repr

/-! ### Answers -/

/-- Status codes (R192). -/
inductive Status where
  | ok | accepted | pending | busy | denied | state | range | full | empty | preempted | unknown
  deriving DecidableEq, Repr

/-- The place a PROMPT took (R177). -/
inductive PromptPlace where
  | active
  | pending
  | waiting (position : Nat)
  deriving DecidableEq, Repr

/-- One entry of an attention set as ATTENTION READ delivers it (R202). -/
inductive AttnEntry where
  | edge (e : Edge)
  | notice (n : Notice)
  | log
  | monitor
  deriving DecidableEq, Repr

/-- The kind of a source (R33). -/
inductive SourceKind where
  | pulse | level
  deriving DecidableEq, Repr

/-- The owner of a source as SOURCE READ returns it (R52). -/
inductive OwnerReport where
  | free | a | b | freeing
  deriving DecidableEq, Repr

/-- The programmed setting of a source by its kind (R33, R44, R52). -/
inductive SettingReport where
  | pulse (mode : SourceMode) (periodTicks highTicks duty : Nat)
  | level (code : Nat)
  deriving DecidableEq, Repr

/-- A route state without its end time (R52). -/
inductive RouteName where
  | closing | closed | opening
  deriving DecidableEq, Repr

/-- A route record as SOURCE READ returns it (R52). -/
structure RouteReport where
  bay   : Bay
  pin   : Fin 48
  state : RouteName
  deriving DecidableEq, Repr

/-- A claim state as MEU CLAIM and MEU RELEASE answer it (R103, R107): WAITING with its priority. -/
inductive ClaimState where
  | none
  | waiting (priority : Priority)
  | holding
  | revoking
  deriving DecidableEq, Repr

/-- A claim record as MEU READ returns it (R121): the fields of R101 and, for a holder, its hold limit. -/
inductive ClaimReport where
  | none
  | waiting (priority : Priority) (claimTime : Time)
  | holding (priority : Priority) (grantTime : Time) (releasePending : Bool) (limit : Nat)
  | revoking (priority : Priority) (grantTime : Time) (releasePending : Bool)
  deriving DecidableEq, Repr

/-- A sense connection state without its end time (R121). -/
inductive SenseName where
  | connecting | connected | disconnecting
  deriving DecidableEq, Repr

/-- The sense connection record as MEU READ returns it (R121). -/
structure SenseReport where
  target : Option (Bay × Nat)
  state  : SenseName
  deriving DecidableEq, Repr

/-- The measurement in flight as MEU READ reports it (R121): the number of samples taken, not their codes. -/
structure MeasReport where
  requester : Master
  bay       : Bay
  range     : Range
  channel   : Nat
  samples   : Nat
  settle    : Nat
  limit     : Option Nat
  phase     : PhaseName
  taken     : Nat
  deriving DecidableEq, Repr

/-- An operand that an answer echoes, with its width in bytes in the request (R44, R192). -/
structure Echo where
  width : Nat
  value : Int
  deriving DecidableEq, Repr

/-- What an answer carries after its status: for each request what its rule lists, in that order. `Body.bytes` of
Machine/Layout.lean gives its bytes. -/
inductive Body where
  | none
  | refusedState (state : BayState) (phase : Option Phase)
  | bay (state : BayState) (phase : Option Phase) (unitSeq : Half)
  | finished (state : BayState) (phase : Option Phase) (unitSeq : Half) (verdict : UnitVerdict) (counts : Counts)
  | abortedUnit (state : BayState) (phase : Option Phase) (unitSeq : Half) (verdict : UnitVerdict)
  | setup (s : Setup)
  | bayRead (ctx : BayCtx) (inputs : Inputs) (emergency : Bool) (out : Outputs) (lamp : Lamp)
  | setting (echo : List Echo) (setting : SettingReport) (flag : RangeFlag)
  | source (kind : SourceKind) (owner : OwnerReport) (setting : SettingReport) (parked : Bool) (flag : RangeFlag)
      (routes : List RouteReport)
  | frameDef (d : FrameDef)
  | frameRead (d : FrameDef) (runtimeA runtimeB : Option Runtime)
  | net (portState : PortState) (tokens : Int) (fails : Nat) (curClass : Cls) (credit : Nat)
      (current : Option (Nat × Nat × Bool)) (queues : List (Nat × List Nat))
  | response (index : Nat) (r : Resp)
  | judged (verdict : StepVerdict) (flags : StepFlags) (stepIndex count : Nat) (gaps : Option (Nat × Nat))
      (lastSeen : Option Time) (mismatch : Nat)
  | monitor (left : Nat) (r : MonRec)
  | claim (c : ClaimState)
  | measure (range : Range) (channel samples settle : Nat)
  | result (r : Result)
  | meu (claims : Tri ClaimReport) (inFlight : Option MeasReport) (sense : Option SenseReport)
  | cal (bay : Bay) (range : Range) (r : CalRec)
  | calRead (bay : Bay) (range : Range) (r : CalRec) (uncal : Bool)
  | limit (r : LimitRec) (guard : Option Nat)
  | step (stepIndex : Nat)
  | log (left : Nat) (r : LogRec)
  | logSetup (threshold count reserved : Nat)
  | stats (bay : Bay) (first count : Nat) (values : List Nat)
  | cursor (c : Nat)
  | codes (l : List Byte) (cursor : Nat)
  | blocks (n : Nat)
  | screen (start : Option Nat)
  | glyph (code : Byte) (rows : B8)
  | prompt (timeout : Nat) (place : PromptPlace)
  | promptId (id : Byte)
  | answer (a : AnswerSlot)
  | promptRead (front : Front) (waiting : List (Byte × PromptKind × Master)) (slotEmpty : Bool)
  | attention (e : AttnEntry) (left : Nat)
  | merged (n : Nat)
  | status (time : Time) (stateA : BayState) (phaseA : Option Phase) (stateB : BayState) (phaseB : Option Phase)
      (store : StoreState) (uncal : Bool) (screen : Option Nat) (log reserved threshold monitor drops : Nat)
  | rack (store : StoreState) (uncal : Bool) (stateA stateB : BayState)
  deriving DecidableEq, Repr

/-- An answer: status and body (R190, R195). -/
structure Answer where
  status : Status
  body   : Body
  deriving DecidableEq, Repr

/-- A master port: `held` while it waits for SEL to rise after a release of RSTN with SEL low (R206), and the
answer of its last request event (R190), absent when that select period has none. -/
structure Port where
  held   : Bool := false
  answer : Option Answer := none
  deriving DecidableEq, Repr

/-! ### The machine -/

/-- The state of the part. -/
structure State where
  /-- RSTN is high and the supply is up (R209). -/
  running   : Bool
  /-- Rack time (R1). -/
  rackTime  : Time
  /-- Fixture input levels (R31). -/
  inputs    : Per Inputs
  /-- EMERGENCY is active (R20). -/
  emergency : Bool
  /-- The Bay Controllers (chapter 1). -/
  bays      : Per BayCtl
  /-- The Bay Setup records (R30). -/
  setups    : Per Setup
  /-- The Source records by number (R33). -/
  sources   : Table Source
  /-- The Route Table in creation order (R40, R52). -/
  routes    : List Route
  /-- Start-up settling of the Pin Matrix, until rack time 3 (R54). -/
  settling  : Bool
  /-- The Frame Table (R55). -/
  frames    : Table FrameDef
  /-- Each bay's part of the Network Stimulus Engine. -/
  nets      : Per Net
  /-- The Response Table by index (R83). -/
  responses : Table (Option Resp)
  /-- The Monitor Queue (R98). -/
  monitor   : Monitor
  /-- The Measurement Unit. -/
  meu       : Meu
  /-- The Calibration Set and UNCAL. -/
  cal       : Cal
  /-- The Limit Table (R134). -/
  limits    : Table LimitRec
  /-- The Verdict Log. -/
  vlg       : Vlg
  /-- The statistics counters by index (R153). -/
  stats     : Per (Table Nat)
  /-- The display. -/
  odc       : Odc
  /-- The masters' access records (R164). -/
  access    : Tri Access
  /-- The bays' window records (R171). -/
  windows   : Per Window
  /-- The Prompt Units. -/
  prus      : Per Pru
  /-- The attention sets (R199). -/
  attn      : Tri Attn
  /-- The master ports. -/
  ports     : Tri Port
  /-- The calibration store interface. -/
  store     : Store
  /-- The MODEL's own counter of free choices taken (notes/assumptions/32.md). -/
  choices   : Nat
  /-- The commands waiting, first in first out. -/
  pending   : List Instr
  deriving DecidableEq, Repr

/-- The part stops with no fault: every event and every request is taken with an effect the manual gives, so
this type has no constructor and a step can never answer `fault` (safe; notes/assumptions/27.md). -/
inductive Fault where
  deriving DecidableEq, Repr

/-- Why the model has no meaning for a command. -/
inductive Refusal where
  /-- Raised by `exec`'s arm of a command whose meaning is not written yet; safe, since nothing is claimed
  of such a run. No arm of this model uses it. -/
  | notModelled (mnemonic : String)
  deriving DecidableEq, Repr

/-- The Measurement Unit after power-on or rack reset (R122). -/
def Meu.reset : Meu where
  claims    := ⟨.none, .none, .none⟩
  waiters   := []
  holdTimer := none
  inFlight  := none
  sense     := some { target := none, state := .disconnecting 3 }
  slots     := ⟨none, none, none⟩

/-- The state right after the power-on event (R209 and the reset tables of the chapters), with every input pin
low, EMERGENCY inactive and SEL high (notes/assumptions/4.md): rack time 0, the store load just started. -/
def State.reset : State where
  running   := true
  rackTime  := 0
  inputs    := ⟨{}, {}⟩
  emergency := false
  bays      := ⟨{ ctx := { state := .vacant } }, { ctx := { state := .vacant } }⟩
  setups    := ⟨{}, {}⟩
  sources   := []
  routes    := []
  settling  := true
  frames    := []
  nets      := ⟨{}, {}⟩
  responses := []
  monitor   := {}
  meu       := Meu.reset
  cal       := {}
  limits    := []
  vlg       := {}
  stats     := ⟨[], []⟩
  odc       := {}
  access    := ⟨{}, {}, {}⟩
  windows   := ⟨{}, {}⟩
  prus      := ⟨{}, {}⟩
  attn      := ⟨{}, {}, {}⟩
  ports     := ⟨{}, {}, {}⟩
  store     := {}
  choices   := 0
  pending   := []

end Sys2Proof.Machine
end

