-- ==== Sys2Proof/Machine/Ops.lean ====
section
/-! DEFINITION. The named operations over the state: per-bay and per-master places, sparse tables, rack time,
attention, statistics, the log and its reservations, answers. -/

namespace Sys2Proof.Machine

/-! ### Places by bay and by master -/

/-- The place of a bay. -/
def Per.get {α : Type} (p : Per α) : Bay → α
  | .a => p.a
  | .b => p.b

/-- Replace the place of a bay. -/
def Per.set {α : Type} (p : Per α) : Bay → α → Per α
  | .a, v => { p with a := v }
  | .b, v => { p with b := v }

/-- The place of a master. -/
def Tri.get {α : Type} (p : Tri α) : Master → α
  | .bsqA => p.bsqA
  | .bsqB => p.bsqB
  | .ssv  => p.ssv

/-- Replace the place of a master. -/
def Tri.set {α : Type} (p : Tri α) : Master → α → Tri α
  | .bsqA, v => { p with bsqA := v }
  | .bsqB, v => { p with bsqB := v }
  | .ssv,  v => { p with ssv := v }

/-- The other bay. -/
def otherBay : Bay → Bay
  | .a => .b
  | .b => .a

/-- The sequencer of a bay. -/
def sequencer : Bay → Master
  | .a => .bsqA
  | .b => .bsqB

/-- The bay of a sequencer; the station has none. -/
def masterBay : Master → Option Bay
  | .bsqA => some .a
  | .bsqB => some .b
  | .ssv  => none

/-! ### Sparse tables -/

/-- The element numbered `i`, the default `d` when it is not listed. -/
def Table.read {α : Type} (d : α) : Table α → Nat → α
  | [], _ => d
  | (k, v) :: t, i => if k = i then v else Table.read d t i

/-- Write element `i`, keeping the canonical form: the default value is never listed. -/
def Table.write {α : Type} [DecidableEq α] (d : α) : Table α → Nat → α → Table α
  | [], i, v => if v = d then [] else [(i, v)]
  | (k, w) :: t, i, v =>
    if i < k then (if v = d then (k, w) :: t else (i, v) :: (k, w) :: t)
    else if i = k then (if v = d then t else (i, v) :: t)
    else (k, w) :: Table.write d t i v

/-- Apply `f`, which keeps the default, to every element by number. -/
def Table.mapAll {α : Type} [DecidableEq α] (d : α) (f : Nat → α → α) (t : Table α) : Table α :=
  (t.map fun p => (p.1, f p.1 p.2)).filter fun p => p.2 ≠ d

/-- The canonical form: numbers strictly rising, no element at its default. -/
abbrev Table.wf {α : Type} (d : α) (t : Table α) : Prop :=
  (t.map Prod.fst).Pairwise (· < ·) ∧ ∀ p ∈ t, p.2 ≠ d

/-- The canonical form of the display memory's codes, whose unlisted cells hold 0x20 (R176). -/
abbrev Memory.wf (m : List Host.Cell) : Prop := Table.wf (0x20 : Byte) m

/-! ### Bytes -/

end Sys2Proof.Machine

namespace Sys2Proof


/-- Byte `i` of eight, 0x00 beyond. -/
def B8.get (p : B8) : Nat → Byte
  | 0 => p.b0
  | 1 => p.b1
  | 2 => p.b2
  | 3 => p.b3
  | 4 => p.b4
  | 5 => p.b5
  | 6 => p.b6
  | 7 => p.b7
  | _ => 0

/-- Replace byte `i`; a position beyond 7 names no byte. -/
def B8.set (p : B8) (i : Nat) (v : Byte) : B8 :=
  match i with
  | 0 => { p with b0 := v }
  | 1 => { p with b1 := v }
  | 2 => { p with b2 := v }
  | 3 => { p with b3 := v }
  | 4 => { p with b4 := v }
  | 5 => { p with b5 := v }
  | 6 => { p with b6 := v }
  | 7 => { p with b7 := v }
  | _ => p

/-- The eight bytes in order. -/
def B8.toList (p : B8) : List Byte := [p.b0, p.b1, p.b2, p.b3, p.b4, p.b5, p.b6, p.b7]

/-- Eight bytes from a list, 0x00 where the list has ended. -/
def B8.ofList (l : List Byte) : B8 where
  b0 := l.getD 0 0
  b1 := l.getD 1 0
  b2 := l.getD 2 0
  b3 := l.getD 3 0
  b4 := l.getD 4 0
  b5 := l.getD 5 0
  b6 := l.getD 6 0
  b7 := l.getD 7 0

/-- Bytewise AND. -/
def B8.and (p q : B8) : B8 where
  b0 := p.b0 &&& q.b0
  b1 := p.b1 &&& q.b1
  b2 := p.b2 &&& q.b2
  b3 := p.b3 &&& q.b3
  b4 := p.b4 &&& q.b4
  b5 := p.b5 &&& q.b5
  b6 := p.b6 &&& q.b6
  b7 := p.b7 &&& q.b7

/-- Write a run of bytes from a position on. -/
def B8.write (p : B8) : Nat → List Byte → B8
  | _, [] => p
  | i, v :: l => B8.write (p.set i v) (i + 1) l

end Sys2Proof

namespace Sys2Proof.Machine

/-! ### Rack time and counters -/

/-- The rack time `ms` milliseconds after `t`. -/
def after (t : Time) (ms : Nat) : Time := t + BitVec.ofNat 32 ms

/-- The interval from `t` to `now` in milliseconds, modulo 2^32 (R1). -/
def elapsed (now t : Time) : Nat := (now - t).toNat

/-- Rack time has reached `t`: the difference modulo 2^32 lies in its lower half, since no timer runs as long as
2^31 ms (R1, R5; notes/assumptions/30.md). -/
def reached (now t : Time) : Bool := elapsed now t < 2147483648

/-- One more, stopping at `max`. -/
def bumpTo (max n : Nat) : Nat := if n < max then n + 1 else n

/-! ### Answers -/

/-- Put an answer into a port's answer place (R190). -/
def State.reply (m : Master) (x : Answer) (s : State) : State :=
  { s with ports := s.ports.set m { s.ports.get m with answer := some x } }

/-- A bare status with a response length of 0 (R195). -/
def bare (st : Status) : Answer := ⟨st, .none⟩

/-- An OK answer. -/
def okWith (x : Body) : Answer := ⟨.ok, x⟩

/-! ### Attention (R198 to R202) -/

/-- The cause codes of R198. -/
def EdgeCause.code : EdgeCause → Nat
  | .safe => 1
  | .preempt => 3
  | .result => 4
  | .prompt => 5
  | .netFault => 6
  | .bayState => 7
  | .store => 8

/-- The code of a bay detail: 0 none, 1 A, 2 B (R207). -/
def bayCode : Option Bay → Nat
  | none => 0
  | some .a => 1
  | some .b => 2

/-- Delivery order within RESULT (R201): COMPLETE before GRANT. -/
def Sub.rank : Sub → Nat
  | .none => 0
  | .complete => 1
  | .grant => 2

/-- The place of an edge entry in the delivery order of R201. -/
def Edge.rank (e : Edge) : Nat := e.cause.code * 9 + bayCode e.bay * 3 + e.sub.rank

/-- Set an edge flag in a list kept in delivery order; a flag already set leaves one entry (R199). -/
def insertEdge (e : Edge) : List Edge → List Edge
  | [] => [e]
  | f :: l => if f = e then f :: l else if e.rank < f.rank then e :: f :: l else f :: insertEdge e l

/-- Raise an edge cause to a master (R199). -/
def State.raise (m : Master) (e : Edge) (s : State) : State :=
  { s with attn := s.attn.set m { s.attn.get m with edges := insertEdge e (s.attn.get m).edges } }

/-- Raise a cause with a bay detail to the bay's sequencer and to the station, less the master that made the
request, if one did (R8). -/
def State.raiseBay (cause : EdgeCause) (requester : Option Master) (bay : Bay) (s : State) : State :=
  let e : Edge := ⟨cause, some bay, .none⟩
  let s1 := if requester = some (sequencer bay) then s else s.raise (sequencer bay) e
  if requester = some .ssv then s1 else s1.raise .ssv e

/-! ### Places of the state by bay -/

/-- Replace a Bay Controller. -/
def State.setBay (bay : Bay) (x : BayCtl) (s : State) : State := { s with bays := s.bays.set bay x }

/-- Change a Bay Context. -/
def State.setCtx (bay : Bay) (x : BayCtx) (s : State) : State :=
  s.setBay bay { s.bays.get bay with ctx := x }

/-- Replace a bay's part of the Network Stimulus Engine. -/
def State.setNet (bay : Bay) (x : Net) (s : State) : State := { s with nets := s.nets.set bay x }

/-- Replace a bay's Prompt Unit. -/
def State.setPru (bay : Bay) (x : Pru) (s : State) : State := { s with prus := s.prus.set bay x }

/-- Replace a bay's window record. -/
def State.setWindow (bay : Bay) (x : Window) (s : State) : State := { s with windows := s.windows.set bay x }

/-- Replace a master's access record. -/
def State.setAccess (m : Master) (x : Access) (s : State) : State := { s with access := s.access.set m x }

/-- Replace the Measurement Unit. -/
def State.setMeu (x : Meu) (s : State) : State := { s with meu := x }

/-- Replace the Verdict Log. -/
def State.setVlg (x : Vlg) (s : State) : State := { s with vlg := x }

/-- A bay's state. -/
def State.bayState (s : State) (bay : Bay) : BayState := (s.bays.get bay).ctx.state

/-- The bay is POWERED or TESTING. -/
def BayState.live : BayState → Bool
  | .powered | .testing => true
  | _ => false

/-! ### Statistics (R153, R154) -/

/-- The counters of R153. -/
inductive Stat where
  | units | passes | fails | aborts | txFrames | txRetries | txDrops | overruns | rxFrames | rxUnknown
  | learnMisses | measurements | overranges | promptTimeouts | strayKeys | safeEntries
  deriving DecidableEq, Repr

/-- The index of a counter (R153). -/
def Stat.index : Stat → Nat
  | .units => 0
  | .passes => 1
  | .fails => 2
  | .aborts => 3
  | .txFrames => 4
  | .txRetries => 5
  | .txDrops => 6
  | .overruns => 7
  | .rxFrames => 8
  | .rxUnknown => 9
  | .learnMisses => 10
  | .measurements => 11
  | .overranges => 12
  | .promptTimeouts => 13
  | .strayKeys => 14
  | .safeEntries => 15

/-- A counter's value. -/
def State.stat (s : State) (bay : Bay) (c : Stat) : Nat := Table.read 0 (s.stats.get bay) c.index

/-- One increment, stopping at 2^32 - 1 (R154). -/
def State.count (bay : Bay) (c : Stat) (s : State) : State :=
  { s with stats := s.stats.set bay (Table.write 0 (s.stats.get bay) c.index (bumpTo 4294967295 (s.stat bay c))) }

/-! ### The log and its reservations (R143 to R149) -/

/-- The record count plus R. -/
def Vlg.sum (v : Vlg) : Nat := v.log.length + v.reservations.length

/-- A place is free and not reserved (R144, R147). -/
def Vlg.room (v : Vlg) : Bool := v.sum < 128

/-- The reservation stands for a STEP record of the bay. -/
def Holder.stepOf (bay : Bay) : Holder → Bool
  | .measure x => x = bay
  | .prompt x => x = bay
  | .unit _ => false

/-- *steps_reserved* (R143). -/
def Vlg.stepsReserved (v : Vlg) (bay : Bay) : Nat := v.reservations.countP (Holder.stepOf bay)

/-- Step admission (R148). -/
def Vlg.admits (v : Vlg) (bay : Bay) : Bool := v.stepsWritten.get bay + v.stepsReserved bay < 65535

/-- Take a reservation that has been granted (R144). -/
def Vlg.reserve (h : Holder) (v : Vlg) : Vlg := { v with reservations := v.reservations ++ [h] }

/-- A reservation leaves the list (R145, R146). -/
def Vlg.unreserve (h : Holder) (v : Vlg) : Vlg := { v with reservations := v.reservations.erase h }

/-- Append a record. -/
def Vlg.append (r : LogRec) (v : Vlg) : Vlg := { v with log := v.log ++ [r] }

/-- The step count of a verdict goes up by one and stops at 65535 (R25). -/
def Counts.add (c : Counts) : StepVerdict → Counts
  | .pass => { c with pass := bumpTo 65535 c.pass }
  | .marginal => { c with marginal := bumpTo 65535 c.marginal }
  | .fail => { c with fail := bumpTo 65535 c.fail }
  | .error => { c with error := bumpTo 65535 c.error }

/-- What the writer of a STEP record supplies (R141). -/
structure StepDraft where
  source   : StepSource
  verdict  : StepVerdict
  value    : Option Int
  limit    : Option Nat
  promptId : Option Byte
  flags    : StepFlags
  deriving DecidableEq, Repr

/-- The record the Verdict Log makes of a draft: *unit_seq* from the Bay Context, *step_index* by R148, the time. -/
def State.stepRecord (s : State) (bay : Bay) (d : StepDraft) : StepRec where
  bay       := bay
  unitSeq   := (s.bays.get bay).ctx.unitSeq
  stepIndex := s.vlg.stepsWritten.get bay
  source    := d.source
  verdict   := d.verdict
  value     := d.value
  limit     := d.limit
  promptId  := d.promptId
  flags     := d.flags
  time      := s.rackTime

/-- The Bay Controller counts a STEP record and takes its UNCAL flag (R25, R149). -/
def BayCtx.report (c : BayCtx) (d : StepDraft) : BayCtx :=
  { c with counts := c.counts.add d.verdict, uncal := c.uncal || d.flags.uncal }

/-- Write a STEP record: reserved when a holder is named, immediate otherwise (R146, R147). -/
def State.writeStep (bay : Bay) (holder : Option Holder) (d : StepDraft) (s : State) : State :=
  let v := match holder with
    | some h => s.vlg.unreserve h
    | none => s.vlg
  { s with
    vlg := { (v.append (.step (s.stepRecord bay d))) with
      stepsWritten := v.stepsWritten.set bay (v.stepsWritten.get bay + 1) }
    bays := s.bays.set bay { s.bays.get bay with ctx := (s.bays.get bay).ctx.report d } }

/-- The UNIT record of R27. -/
def State.unitRecord (s : State) (bay : Bay) (verdict : UnitVerdict) (cause : Option UnitCause) : UnitRec :=
  let c := (s.bays.get bay).ctx
  { bay      := bay
    unitSeq  := c.unitSeq
    serial   := c.serial.getD []
    planTag  := c.planTag.getD 0
    verdict  := verdict
    counts   := c.counts
    duration := s.rackTime - c.startTime.getD s.rackTime
    cause    := cause
    uncal    := c.uncal
    unknown  := c.unknownSeen
    time     := s.rackTime }

/-- The counter beside UNITS that a UNIT record increments (R153). -/
def UnitVerdict.stat : UnitVerdict → Stat
  | .pass => .passes
  | .passMarginal => .passes
  | .fail => .fails
  | .aborted => .aborts

/-- End a unit: store its verdict, write its UNIT record with its reservation, clear *unit_owed*, count it
(R13, R15, R21, R24, R27, R146). -/
def State.endUnit (bay : Bay) (verdict : UnitVerdict) (cause : Option UnitCause) (s : State) : State :=
  let s1 : State :=
    { s with
      vlg := (s.vlg.unreserve (.unit bay)).append (.unit (s.unitRecord bay verdict cause))
      bays := s.bays.set bay { s.bays.get bay with
        ctx := { (s.bays.get bay).ctx with unitVerdict := some verdict, unitOwed := false } } }
  (s1.count bay .units).count bay verdict.stat

/-! ### Requests: framing, admission and the answer (R190 to R197) -/

/-- Who may send a request (R196). -/
inductive Sender where
  | anyPort | station | bayPorts
  deriving DecidableEq, Repr

/-- The access test of R196. -/
def Sender.permits : Sender → Master → Bool
  | .anyPort, _ => true
  | .station, m => m = .ssv
  | .bayPorts, m => m ≠ .ssv

/-- The row of a request in the code table of R197: who may send it, whether its operand length fits, whether its
tag names a bay on MPS, whether it is taken during the store load. -/
structure Gate where
  sender  : Sender
  fits    : Bool
  tagged  : Bool
  loading : Bool
  deriving DecidableEq, Repr

/-- The bay a tag byte names (R197). -/
def bayOfTag (t : Byte) : Option Bay :=
  if t = 1 then some .a else if t = 2 then some .b else none

end Sys2Proof.Machine

/-- The bay a request acts on: the sender's own, or the one in the station's tag, which admission has checked. -/
def Sys2Proof.Req.bay (r : Sys2Proof.Req) : Sys2Proof.Bay :=
  match r.port with
  | .bsqA => .a
  | .bsqB => .b
  | .ssv => (Sys2Proof.Machine.bayOfTag r.tag).getD .a

namespace Sys2Proof.Machine

/-- The checks of R194 in their order; the first that fails gives the status. -/
def admission (r : Req) (g : Gate) (s : State) : Option Status :=
  if s.store.state = .loading ∧ ¬ g.loading then some .busy
  else if ¬ g.sender.permits r.port then some .denied
  else if ¬ g.fits then some .range
  else if g.tagged ∧ r.port = .ssv ∧ bayOfTag r.tag = none then some .range
  else none

/-- The port takes requests: the part runs, and the port is not held from a release of RSTN with SEL low (R206). -/
def State.listens (s : State) (m : Master) : Bool := s.running && !(s.ports.get m).held

/-- Take a request: admission, then the owner's rule, then the answer, all in one event (R190, R194). -/
def serve (r : Req) (g : Gate) (owner : State → State × Answer) (s : State) : Host.Outcome State Fault Refusal :=
  .next (if s.listens r.port then
      match admission r g s with
      | some st => s.reply r.port (bare st)
      | none => (owner s).1.reply r.port (owner s).2
    else s)

/-- Take an event; while the part is in reset or without supply it takes none (R209). -/
def event (f : State → State) (s : State) : Host.Outcome State Fault Refusal :=
  .next (if s.running then f s else s)

/-- Gates of a fixed operand length `n`. -/
def Gate.fixed (sender : Sender) (tagged : Bool) (n : Nat) (r : Req) : Gate :=
  ⟨sender, r.len.toNat = n, tagged, false⟩

end Sys2Proof.Machine
end

