-- ==== Sys2Proof/Machine/Operands.lean ====
section
/-! DEFINITION. Reading operands: the enumeration codes of R207, clamps and rounding (R2, R124, "Clamped and
refused" of 00_scope.md), indexes and sets. -/

namespace Sys2Proof.Machine

/-! ### Scalars -/

/-- A scalar stored at the nearer bound. -/
def clampNat (lo hi n : Nat) : Nat := if n < lo then lo else if hi < n then hi else n

/-- A signed scalar stored at the nearer bound. -/
def clampInt (lo hi n : Int) : Int := if n < lo then lo else if hi < n then hi else n

/-- The rounded quotient of natural numbers, halves up (R2). -/
def roundNat (n d : Nat) : Nat := (2 * n + d) / (2 * d)

/-- The rounded quotient by a positive number, halves away from zero (R2, R124). -/
def roundInt (n d : Int) : Int := if 0 ≤ n then (2 * n + d) / (2 * d) else -((2 * (-n) + d) / (2 * d))

/-- A flag operand reads as set for any byte that is not zero (R192). -/
def flagOf (x : Byte) : Bool := x ≠ 0

/-- A four-byte operand in two's complement (R192). -/
def signed (x : Full) : Int := x.toInt

/-! ### Bytes of multi-byte integers (R192): the most significant first -/

/-- A 16-bit value as two bytes. -/
def bytes16 (v : Half) : List Byte := [v.extractLsb' 8 8, v.extractLsb' 0 8]

/-- A 32-bit value as four bytes. -/
def bytes32 (v : Full) : List Byte :=
  [v.extractLsb' 24 8, v.extractLsb' 16 8, v.extractLsb' 8 8, v.extractLsb' 0 8]

/-- A 48-bit value as six bytes. -/
def bytes48 (v : BitVec 48) : List Byte :=
  [v.extractLsb' 40 8, v.extractLsb' 32 8, v.extractLsb' 24 8, v.extractLsb' 16 8, v.extractLsb' 8 8,
    v.extractLsb' 0 8]

/-- Two bytes as a 16-bit value. -/
def half (hi lo : Byte) : Half := hi ++ lo

/-- The byte at a position of the operands. -/
def byteAt (l : List Byte) (i : Nat) : Byte := l.getD i 0

/-- The two bytes from a position on. -/
def halfAt (l : List Byte) (i : Nat) : Half := half (byteAt l i) (byteAt l (i + 1))

/-- The four bytes from a position on. -/
def fullAt (l : List Byte) (i : Nat) : Full := halfAt l i ++ halfAt l (i + 2)

/-- The eight bytes from a position on, in order. -/
def eightAt (l : List Byte) (i : Nat) : B8 := B8.ofList (l.drop i)

/-! ### Indexes -/

/-- A source number S0 to S7. -/
def sourceOf (x : Byte) : Option (Fin 8) := if h : x.toNat < 8 then some ⟨x.toNat, h⟩ else none

/-- A fixture pin P0 to P47. -/
def pinOf (x : Byte) : Option (Fin 48) := if h : x.toNat < 48 then some ⟨x.toNat, h⟩ else none

/-! ### Enumeration codes (R207) -/

/-- Measurement range codes. -/
def rangeOf (x : Byte) : Option Range :=
  match x.toNat with
  | 0 => some .v2
  | 1 => some .v20
  | 2 => some .il
  | 3 => some .ih
  | 4 => some .lum
  | _ => none

/-- Step verdict codes. -/
def verdictOf (x : Byte) : Option StepVerdict :=
  match x.toNat with
  | 0 => some .pass
  | 1 => some .marginal
  | 2 => some .fail
  | 3 => some .error
  | _ => none

/-- Prompt kind codes. -/
def kindOf (x : Byte) : Option PromptKind :=
  match x.toNat with
  | 0 => some .acknowledge
  | 1 => some .choice
  | 2 => some .visual
  | _ => none

/-- Master codes of notices. -/
def masterOf (x : Byte) : Option Master :=
  match x.toNat with
  | 1 => some .bsqA
  | 2 => some .bsqB
  | 3 => some .ssv
  | _ => none

/-- The three attribute flags. -/
inductive AttrFlag where
  | blink | inverse | underline
  deriving DecidableEq, Repr

/-- Display attribute flag codes. -/
def attrFlagOf (x : Byte) : Option AttrFlag :=
  match x.toNat with
  | 0 => some .blink
  | 1 => some .inverse
  | 2 => some .underline
  | _ => none

/-- Transmit class codes. -/
def classOf (x : Byte) : Option Cls :=
  match x.toNat with
  | 0 => some .c0
  | 1 => some .c1
  | 2 => some .c2
  | 3 => some .c3
  | _ => none

/-- The keys of an *allowed* byte: 0x01 YES, 0x02 NO, 0x04 REPEAT. -/
def keysOf (x : Byte) : KeySet := ⟨x.getLsbD 0, x.getLsbD 1, x.getLsbD 2⟩

/-- The byte names no key other than YES, NO and REPEAT, and at least one (R177). -/
def keysValid (x : Byte) : Bool := 0 < x.toNat && x.toNat < 8

/-- How many keys a set holds. -/
def KeySet.size (k : KeySet) : Nat := k.yes.toNat + k.no.toNat + k.again.toNat

/-- The set holds the key. -/
def KeySet.has (k : KeySet) : Key → Bool
  | .yes => k.yes
  | .no => k.no
  | .again => k.again

/-- The answer a key gives. -/
def Reply.ofKey : Key → Reply
  | .yes => .yes
  | .no => .no
  | .again => .again

/-! ### Frame Table entries (R55) -/

/-- The bay is among the *members*: 1 A, 2 B, 3 AB. -/
def FrameDef.hasMember (d : FrameDef) : Bay → Bool
  | .a => d.members = 1 || d.members = 3
  | .b => d.members = 2 || d.members = 3

/-- *members* is the one bay alone (R59). -/
def FrameDef.onlyMember (d : FrameDef) : Bay → Bool
  | .a => d.members = 1
  | .b => d.members = 2

/-- The entry is gated WAKE. -/
def FrameDef.wake (d : FrameDef) : Bool := d.gate = 0

/-- The entry's class queue; a valid entry has a class 0 to 3 (R57). -/
def FrameDef.class (d : FrameDef) : Cls := (classOf d.cls).getD .c0

/-- The gate is open in a bay state: WAKE in POWERED and TESTING, RUN in TESTING (R55). -/
def FrameDef.gateOpen (d : FrameDef) (st : BayState) : Bool :=
  match st with
  | .powered => d.wake
  | .testing => true
  | _ => false

/-- A Frame Table entry by index. -/
def State.frame (s : State) (i : Nat) : FrameDef := Table.read {} s.frames i

/-! ### Measurement ranges (6.1) -/

/-- Full scale in milli-units. -/
def Range.fullScale : Range → Int
  | .v2 => 2000
  | .v20 => 20000
  | .il => 500
  | .ih => 5000
  | .lum => 20000

/-- The range uses the sense bus. -/
def Range.onSense : Range → Bool
  | .v2 | .v20 => true
  | _ => false

/-- The channel is one of the range's: a pin for V2 and V20, a sensor for LUM, ignored for IL and IH (R109). -/
def Range.channelOk (r : Range) (channel : Nat) : Bool :=
  match r with
  | .v2 | .v20 => channel < 48
  | .lum => channel < 16
  | .il | .ih => true

/-- The position of a bay's record in the Calibration Set (R130). -/
def calPosition (bay : Bay) (r : Range) : Nat :=
  (match bay with | .a => 0 | .b => 5) +
  (match r with | .v2 => 0 | .v20 => 1 | .il => 2 | .ih => 3 | .lum => 4)

/-! ### Display addressing (R161) -/

/-- How many addresses a master's cursor has. -/
def addressSpace : Master → Nat
  | .bsqA | .bsqB => 800
  | .ssv => 2048

/-- The first cell of a master's region; the station addresses the whole memory. -/
def regionBase : Master → Nat
  | .bsqA => 0
  | .bsqB => 800
  | .ssv => 0

/-- The cell of an address, wrapping within the sender's addressing (R165). -/
def cellOf (m : Master) (address : Nat) : Nat := regionBase m + address % addressSpace m

end Sys2Proof.Machine
end

