-- ==== Sys2Proof/Decode.lean ====
section
/-! DEFINITION. The bytes of a request (R190, R192, R197, R207): the command that the bytes of a select period make, and
the bytes of a request. The command table's 101 rows give no bits, so no table word spells a command. R197 gives each
request its code and its operand length; the order of the operands within it is that of the owning rule
(notes/assumptions/6.md). -/

namespace Sys2Proof

open Machine

/-- The command an opcode-table word spells: none, since no row of the table gives bits. -/
def decodeTableWord (_nbits _w : Nat) : Option Instr := none

/-! ### Operands -/

/-- A policy override of START: bit `i` says that it is given, bit `i + 4` is its value (notes/assumptions/6.md). -/
def overrideOf (x : Byte) (i : Nat) : Option Bool := if x.getLsbD i then some (x.getLsbD (i + 4)) else none

/-- The bits of a policy override. -/
def overrideBits (x : Option Bool) (i : Nat) : Nat :=
  match x with
  | none => 0
  | some v => 2 ^ i + (if v then 2 ^ (i + 4) else 0)

/-- The operands of START: the serial length, the serial, the plan tag, the overrides. -/
def startOps (l : List Byte) : StartOps :=
  let n := (byteAt l 0).toNat
  let x := byteAt l (n + 3)
  { serialLen     := byteAt l 0
    serial        := (l.drop 1).take n
    planTag       := halfAt l (n + 1)
    marginalFails := overrideOf x 0
    unknownFails  := overrideOf x 1
    operatorAbort := overrideOf x 2 }

/-- The operands of BAY SETUP WRITE, in the order of R30. -/
def setupOps (l : List Byte) : SetupOps where
  clampTimeout   := halfAt l 0
  contactTimeout := halfAt l 2
  powerSettle    := halfAt l 4
  powerOffSettle := halfAt l 6
  reservedPins   := halfAt l 8 ++ fullAt l 10
  bitRate        := halfAt l 14
  loadLimit      := byteAt l 16
  bucketDepth    := halfAt l 17
  w2             := byteAt l 19
  w1             := byteAt l 20
  w0             := byteAt l 21
  retryLimit     := byteAt l 22
  ageLimit       := halfAt l 23
  holdLimit      := halfAt l 25
  alertPage      := halfAt l 27
  mirrorTx       := byteAt l 29
  mirrorRx       := byteAt l 30
  marginalFails  := byteAt l 31
  unknownFails   := byteAt l 32
  operatorAbort  := byteAt l 33

/-- The operands of FRAME WRITE after the index, in the order of R55; a position of 0xFF says absent. -/
def frameOps (l : List Byte) : FrameOps where
  valid    := byteAt l 0
  members  := byteAt l 1
  ident    := halfAt l 2
  length   := byteAt l 4
  payload  := eightAt l 5
  cls      := byteAt l 13
  period   := halfAt l 14
  phase    := halfAt l 16
  gate     := byteAt l 18
  alive    := if byteAt l 19 = 0xFF then none else some (byteAt l 19, byteAt l 20)
  checksum := if byteAt l 21 = 0xFF then none else some (byteAt l 21)
  mirror   := byteAt l 22

/-- The operands of EXPECT, in the order of R92. -/
def expectOps (l : List Byte) : ExpectOps where
  ident    := halfAt l 0
  gapLow   := halfAt l 2
  gapHigh  := halfAt l 4
  mask     := eightAt l 6
  value    := eightAt l 14
  required := byteAt l 22

/-- The operands of MEASURE, in the order of R109. -/
def measureOps (l : List Byte) : MeasureOps where
  range   := byteAt l 0
  channel := byteAt l 1
  samples := byteAt l 2
  settle  := halfAt l 3
  limit   := halfAt l 5

/-- The operands of LIMIT WRITE after the index, in the order of R135. -/
def limitOps (l : List Byte) : LimitOps where
  valid := byteAt l 0
  range := byteAt l 1
  low   := fullAt l 2
  high  := fullAt l 6
  guard := fullAt l 10

/-- The operands of PROMPT, in the order of R177. -/
def promptOps (l : List Byte) : PromptOps where
  promptId := byteAt l 0
  kind     := byteAt l 1
  allowed  := byteAt l 2
  timeout  := fullAt l 3
  page     := halfAt l 7
  blink    := byteAt l 9

/-! ### The code table (R197) -/

/-- A row of the code table: the request code, and the command that a head and its operands make. -/
abbrev CodeRow := Byte × (Req → List Byte → Instr)

/-- The requests of the Master Port Interface. -/
def mpiCodes : List CodeRow :=
  [(0x01, fun r _ => .statusRead r),
   (0x02, fun r _ => .attentionRead r),
   (0x03, fun r l => .noticePost r (byteAt l 0) (byteAt l 1))]

/-- The requests of the Bay Controllers. -/
def bayCodes : List CodeRow :=
  [(0x10, fun r _ => .clamp r),
   (0x11, fun r _ => .contact r),
   (0x12, fun r _ => .power r),
   (0x13, fun r l => .start r (startOps l)),
   (0x14, fun r _ => .finish r),
   (0x15, fun r _ => .unload r),
   (0x16, fun r _ => .abort r),
   (0x17, fun r _ => .release r),
   (0x18, fun r _ => .bayReset r),
   (0x19, fun r l => .baySetupWrite r (setupOps l)),
   (0x1A, fun r _ => .baySetupRead r),
   (0x1B, fun r _ => .bayRead r)]

/-- The requests of the Source Pool and Pin Matrix. -/
def sourceCodes : List CodeRow :=
  [(0x20, fun r l => .sourceClaim r (byteAt l 0)),
   (0x21, fun r l => .sourceFree r (byteAt l 0)),
   (0x22, fun r l => .setSpeed r (byteAt l 0) (halfAt l 1) (halfAt l 3)),
   (0x23, fun r l => .setRpm r (byteAt l 0) (halfAt l 1) (byteAt l 3)),
   (0x24, fun r l => .setFrequency r (byteAt l 0) (fullAt l 1)),
   (0x25, fun r l => .setDuty r (byteAt l 0) (halfAt l 1)),
   (0x26, fun r l => .setLevel r (byteAt l 0) (fullAt l 1)),
   (0x27, fun r l => .sourceRead r (byteAt l 0)),
   (0x28, fun r l => .routeClose r (byteAt l 0) (byteAt l 1)),
   (0x29, fun r l => .routeOpen r (byteAt l 0) (byteAt l 1))]

/-- The requests of the Network Stimulus Engine. -/
def networkCodes : List CodeRow :=
  [(0x30, fun r l => .frameWrite r (byteAt l 0) (frameOps (l.drop 1))),
   (0x31, fun r l => .frameRead r (byteAt l 0)),
   (0x32, fun r l => .setPayload r (byteAt l 0) (byteAt l 1) (l.drop 2)),
   (0x33, fun r l => .send r (byteAt l 0) (byteAt l 1)),
   (0x34, fun r _ => .netResume r),
   (0x35, fun r _ => .netRead r)]

/-- The requests of the Response Monitor. -/
def responseCodes : List CodeRow :=
  [(0x40, fun r l => .expect r (expectOps l)),
   (0x41, fun r l => .unexpect r (halfAt l 0)),
   (0x42, fun r l => .responseRead r (byteAt l 0) (halfAt l 1)),
   (0x43, fun r l => .checkResponse r (byteAt l 0) (halfAt l 1)),
   (0x44, fun r _ => .monitorPop r)]

/-- The requests of the Measurement Unit. -/
def measureCodes : List CodeRow :=
  [(0x50, fun r _ => .meuClaim r),
   (0x51, fun r _ => .meuRelease r),
   (0x52, fun r l => .measure r (measureOps l)),
   (0x53, fun r _ => .resultRead r),
   (0x54, fun r _ => .meuRead r),
   (0x55, fun r l => .calWrite r (byteAt l 0) (fullAt l 1) (fullAt l 5)),
   (0x56, fun r l => .calRead r (byteAt l 0)),
   (0x57, fun r l => .limitWrite r (byteAt l 0) (limitOps (l.drop 1))),
   (0x58, fun r l => .limitRead r (byteAt l 0))]

/-- The requests of the Verdict Log. -/
def logCodes : List CodeRow :=
  [(0x60, fun r l => .noteStep r (byteAt l 0) (if l.length = 5 then some (fullAt l 1) else none)),
   (0x61, fun r _ => .logPop r),
   (0x62, fun r l => .logSetup r (byteAt l 0)),
   (0x63, fun r l => .statsRead r (byteAt l 0) (byteAt l 1) (byteAt l 2))]

/-- The requests of the Operator Display Controller. -/
def displayCodes : List CodeRow :=
  [(0x70, fun r l => .setCursor r (halfAt l 0)),
   (0x71, fun r l => .displayWrite r l),
   (0x72, fun r l => .displayRead r (byteAt l 0)),
   (0x73, fun r l => .attrSet r (byteAt l 0) (byteAt l 1)),
   (0x74, fun r l => .attrClear r (byteAt l 0) (byteAt l 1)),
   (0x75, fun r l => .clearArea r (halfAt l 0)),
   (0x76, fun r l => .setWindow r (halfAt l 0)),
   (0x77, fun r l => .stationScreen r (byteAt l 0) (halfAt l 1)),
   (0x78, fun r l => .glyphLoad r (byteAt l 0) (eightAt l 1))]

/-- The requests of the Prompt Units. -/
def promptCodes : List CodeRow :=
  [(0x80, fun r l => .prompt r (promptOps l)),
   (0x81, fun r l => .promptCancel r (if l.length = 1 then some (byteAt l 0) else none)),
   (0x82, fun r _ => .answerRead r),
   (0x83, fun r _ => .promptRead r)]

/-- The requests of the Calibration Store Interface. -/
def storeCodes : List CodeRow :=
  [(0x90, fun r _ => .calSave r),
   (0x91, fun r _ => .rackReset r)]

/-- The code table. -/
def codeTable : List CodeRow :=
  mpiCodes ++ bayCodes ++ sourceCodes ++ networkCodes ++ responseCodes ++ measureCodes ++
  logCodes ++ displayCodes ++ promptCodes ++ storeCodes

/-- The command of a request event (R190, R193): a length above 250 and a code outside the table are framing faults. -/
def requestOf (code : Byte) (r : Req) (l : List Byte) : Instr :=
  if 250 < r.len.toNat then .operandLengthOver250 r code
  else match codeTable.find? fun row => row.1 = code with
    | some row => row.2 r l
    | none => .unknownRequest r code

/-- The command that the bytes a master has sent in a select period make by the time SEL rises (R190, R193, R207): code,
tag, length *n* and *n* operand bytes; with fewer the request event has not come, and bytes beyond are not decoded. -/
def commandOf (port : Master) : List Byte → Instr
  | code :: tag :: len :: l =>
    if l.length < len.toNat then .selRisesEarly port else requestOf code ⟨port, tag, len⟩ (l.take len.toNat)
  | _ => .selRisesEarly port

/-! ### The bytes of a request -/

/-- The operand bytes of START. -/
def StartOps.bytes (o : StartOps) : List Byte :=
  o.serialLen :: o.serial ++ bytes16 o.planTag ++
  [BitVec.ofNat 8 (overrideBits o.marginalFails 0 + overrideBits o.unknownFails 1 + overrideBits o.operatorAbort 2)]

/-- The operand bytes of BAY SETUP WRITE. -/
def SetupOps.bytes (o : SetupOps) : List Byte :=
  bytes16 o.clampTimeout ++ bytes16 o.contactTimeout ++ bytes16 o.powerSettle ++ bytes16 o.powerOffSettle ++
  bytes48 o.reservedPins ++ bytes16 o.bitRate ++ [o.loadLimit] ++ bytes16 o.bucketDepth ++
  [o.w2, o.w1, o.w0, o.retryLimit] ++ bytes16 o.ageLimit ++ bytes16 o.holdLimit ++ bytes16 o.alertPage ++
  [o.mirrorTx, o.mirrorRx, o.marginalFails, o.unknownFails, o.operatorAbort]

/-- The operand bytes of FRAME WRITE after the index. -/
def FrameOps.bytes (o : FrameOps) : List Byte :=
  [o.valid, o.members] ++ bytes16 o.ident ++ [o.length] ++ o.payload.toList ++ [o.cls] ++ bytes16 o.period ++
  bytes16 o.phase ++ [o.gate, (o.alive.getD (0xFF, 0)).1, (o.alive.getD (0xFF, 0)).2, o.checksum.getD 0xFF, o.mirror]

/-- The operand bytes of EXPECT. -/
def ExpectOps.bytes (o : ExpectOps) : List Byte :=
  bytes16 o.ident ++ bytes16 o.gapLow ++ bytes16 o.gapHigh ++ o.mask.toList ++ o.value.toList ++ [o.required]

/-- The operand bytes of MEASURE. -/
def MeasureOps.bytes (o : MeasureOps) : List Byte :=
  [o.range, o.channel, o.samples] ++ bytes16 o.settle ++ bytes16 o.limit

/-- The operand bytes of LIMIT WRITE after the index. -/
def LimitOps.bytes (o : LimitOps) : List Byte :=
  [o.valid, o.range] ++ bytes32 o.low ++ bytes32 o.high ++ bytes32 o.guard

/-- The operand bytes of PROMPT. -/
def PromptOps.bytes (o : PromptOps) : List Byte :=
  [o.promptId, o.kind, o.allowed] ++ bytes32 o.timeout ++ bytes16 o.page ++ [o.blink]

/-- The code, the head and the operand bytes of a request with a code of the table; none for every other command. -/
def Instr.request : Instr → Option (Byte × Req × List Byte)
  | .powerOn _ _ _ => none
  | .rstnLow => none
  | .endOfLoad _ => none
  | .calSaveEnd _ => none
  | .selRisesEarly _ => none
  | .operandLengthOver250 _ _ => none
  | .unknownRequest _ _ => none
  | .statusRead r => some (0x01, r, [])
  | .attentionRead r => some (0x02, r, [])
  | .noticePost r target code => some (0x03, r, [target, code])
  | .clamp r => some (0x10, r, [])
  | .contact r => some (0x11, r, [])
  | .power r => some (0x12, r, [])
  | .start r o => some (0x13, r, o.bytes)
  | .finish r => some (0x14, r, [])
  | .unload r => some (0x15, r, [])
  | .abort r => some (0x16, r, [])
  | .release r => some (0x17, r, [])
  | .bayReset r => some (0x18, r, [])
  | .baySetupWrite r o => some (0x19, r, o.bytes)
  | .baySetupRead r => some (0x1A, r, [])
  | .bayRead r => some (0x1B, r, [])
  | .sourceClaim r source => some (0x20, r, [source])
  | .sourceFree r source => some (0x21, r, [source])
  | .setSpeed r source v k => some (0x22, r, [source] ++ bytes16 v ++ bytes16 k)
  | .setRpm r source rpm p => some (0x23, r, [source] ++ bytes16 rpm ++ [p])
  | .setFrequency r source f => some (0x24, r, [source] ++ bytes32 f)
  | .setDuty r source d => some (0x25, r, [source] ++ bytes16 d)
  | .setLevel r source mv => some (0x26, r, [source] ++ bytes32 mv)
  | .sourceRead r source => some (0x27, r, [source])
  | .routeClose r source pin => some (0x28, r, [source, pin])
  | .routeOpen r source pin => some (0x29, r, [source, pin])
  | .frameWrite r index o => some (0x30, r, index :: o.bytes)
  | .frameRead r index => some (0x31, r, [index])
  | .setPayload r index offset bytes => some (0x32, r, [index, offset] ++ bytes)
  | .send r index count => some (0x33, r, [index, count])
  | .netResume r => some (0x34, r, [])
  | .netRead r => some (0x35, r, [])
  | .expect r o => some (0x40, r, o.bytes)
  | .unexpect r ident => some (0x41, r, bytes16 ident)
  | .responseRead r selector which => some (0x42, r, [selector] ++ bytes16 which)
  | .checkResponse r selector which => some (0x43, r, [selector] ++ bytes16 which)
  | .monitorPop r => some (0x44, r, [])
  | .meuClaim r => some (0x50, r, [])
  | .meuRelease r => some (0x51, r, [])
  | .measure r o => some (0x52, r, o.bytes)
  | .resultRead r => some (0x53, r, [])
  | .meuRead r => some (0x54, r, [])
  | .calWrite r range gain offset => some (0x55, r, [range] ++ bytes32 gain ++ bytes32 offset)
  | .calRead r range => some (0x56, r, [range])
  | .limitWrite r index o => some (0x57, r, index :: o.bytes)
  | .limitRead r index => some (0x58, r, [index])
  | .noteStep r verdict value => some (0x60, r, verdict :: (value.map bytes32).getD [])
  | .logPop r => some (0x61, r, [])
  | .logSetup r threshold => some (0x62, r, [threshold])
  | .statsRead r first count clear => some (0x63, r, [first, count, clear])
  | .setCursor r address => some (0x70, r, bytes16 address)
  | .displayWrite r codes => some (0x71, r, codes)
  | .displayRead r count => some (0x72, r, [count])
  | .attrSet r flag count => some (0x73, r, [flag, count])
  | .attrClear r flag count => some (0x74, r, [flag, count])
  | .clearArea r count => some (0x75, r, bytes16 count)
  | .setWindow r at_ => some (0x76, r, bytes16 at_)
  | .stationScreen r on at_ => some (0x77, r, [on] ++ bytes16 at_)
  | .glyphLoad r code rows => some (0x78, r, [code] ++ rows.toList)
  | .prompt r o => some (0x80, r, o.bytes)
  | .promptCancel r promptId => some (0x81, r, promptId.toList)
  | .answerRead r => some (0x82, r, [])
  | .promptRead r => some (0x83, r, [])
  | .calSave r => some (0x90, r, [])
  | .rackReset r => some (0x91, r, [])
  | .unitPresentRising _ => none
  | .unitPresentFalling _ => none
  | .clampClosedRising _ => none
  | .clampClosedFalling _ => none
  | .contactMadeRising _ => none
  | .contactMadeFalling _ => none
  | .interlockOkFalling _ => none
  | .emergencyActive _ => none
  | .emergencyInactive => none
  | .fixtureTimerExpiry _ => none
  | .routeTransitionComplete _ _ _ => none
  | .pulsePeriodEnd _ => none
  | .frameDue _ _ => none
  | .tokenAccrual _ => none
  | .attemptRestart _ => none
  | .attemptOutcome _ _ => none
  | .frameReceived _ _ => none
  | .agingPass => none
  | .holdTimerExpiry => none
  | .senseConnectComplete => none
  | .senseDisconnectComplete => none
  | .settleEnd => none
  | .sampleTaken _ => none
  | .blinkPhaseChange => none
  | .clearBlock _ => none
  | .keyPress _ _ => none
  | .promptTimerExpiry _ => none
  | .abortKey _ => none
  | .interlockOkRising _ => none
  | .supplyLoss => none

/-- The bytes a master sends for a request (R190): code, tag, operand length, operands. -/
def Instr.requestBytes (i : Instr) : Option (List Byte) :=
  i.request.map fun x => x.1 :: x.2.1.tag :: x.2.1.len :: x.2.2

end Sys2Proof
end

