-- ==== Sys2Proof/Machine/Flags.lean ====
section
/-! DEFINITION. Every flag the part computes: range flags of settings, the flags and verdicts of measurements and
response checks, the unit verdict, the attention set and ATN, the blink phase. -/

namespace Sys2Proof.Machine

/-! ### Settings (R49) -/

/-- An operand was clamped down to its maximum. -/
def clampedDown (hi n : Nat) : Bool := hi < n

/-- An operand was clamped up to its minimum. -/
def clampedUp (lo n : Nat) : Bool := n < lo

/-- *range_flag* of a period in range or a stop by an operand of 0: ABOVE_RANGE if any operand was clamped down,
else BELOW_RANGE if any was clamped up, else NONE. -/
def clampFlag (down up : Bool) : RangeFlag := if down then .aboveRange else if up then .belowRange else .none

/-! ### Measurements (R123, R126, R128, R129) -/

/-- A code at the end of the converter's span. -/
def clippedCode (c : Half) : Bool := c.toInt = -32768 || c.toInt = 32767

/-- The mean of the codes (R125). -/
def meanCode (codes : List Half) : Int := roundInt ((codes.map BitVec.toInt).sum) codes.length

/-- The corrected code before its limits (R126). -/
def correctedRaw (r : CalRec) (m : Int) : Int := roundInt (m * r.gain) 16384 + r.offset

/-- The corrected code (R126). -/
def corrected (r : CalRec) (m : Int) : Int := clampInt (-32768) 32767 (correctedRaw r m)

/-- SAT (R126): the corrected code was limited. -/
def saturated (r : CalRec) (m : Int) : Bool := correctedRaw r m < -32768 || 32767 < correctedRaw r m

/-- The engineering value (R127). -/
def engineering (r : Range) (c : Int) : Int := roundInt (c * r.fullScale) 32768

/-- The effective guard (R128). -/
def LimitRec.effectiveGuard (l : LimitRec) : Nat := min l.guard ((l.high - l.low) / 2).toNat

/-- The limit test (R128). -/
def limitVerdict (l : LimitRec) (e : Int) (f : ResultFlags) : StepVerdict :=
  if f.clipped || f.sat then .error
  else if e < l.low ∨ l.high < e then .fail
  else if e < l.low + l.effectiveGuard ∨ l.high - l.effectiveGuard < e then .marginal
  else .pass

/-- The value and flags of a measurement (R123 to R127, R129). -/
def measured (codes : List Half) (range : Range) (r : CalRec) (uncal : Bool) : Int × ResultFlags :=
  let m := meanCode codes
  (engineering range (corrected r m), { clipped := codes.any clippedCode, sat := saturated r m, uncal := uncal })

/-! ### Response checks (R87, R96) -/

/-- The mask comparison over all eight positions (R87). -/
def maskMatches (x : Expectation) (payload : B8) : Bool := payload.and x.mask = x.value

/-- The reason flags of CHECK RESPONSE (R96). -/
def reasons (now : Time) (x : Expectation) (r : Resp) : StepFlags where
  neverSeen := x.required && r.count = 0
  tooFast   := 0 < x.gapLow && (match r.gaps with | some g => g.1 < x.gapLow | none => false)
  tooSlow   := 0 < x.gapHigh && (match r.gaps with | some g => x.gapHigh < g.2 | none => false)
  silent    := 0 < x.gapHigh && (match r.last with | some l => x.gapHigh < elapsed now l.seen | none => false)
  mismatch  := 0 < r.mismatch

/-- FAIL if any reason flag is set, PASS if none is (R96). -/
def reasonVerdict (f : StepFlags) : StepVerdict :=
  if f.neverSeen || f.tooFast || f.tooSlow || f.silent || f.mismatch then .fail else .pass

/-! ### Unit verdict (R26) -/

/-- The verdict of a unit ended by FINISH. -/
def unitVerdictOf (c : BayCtx) : UnitVerdict :=
  if 0 < c.counts.fail + c.counts.error ∨ (c.policy.marginalFails = true ∧ 0 < c.counts.marginal) ∨
      (c.policy.unknownFails = true ∧ c.unknownSeen = true) then .fail
  else if 0 < c.counts.marginal then .passMarginal
  else .pass

/-- The lamp of a unit verdict (R28). -/
def UnitVerdict.lamp : UnitVerdict → Lamp
  | .pass => .pass
  | .passMarginal => .passMarginal
  | .fail => .fail
  | .aborted => .aborted

/-! ### Attention sets and ATN (R199 to R202) -/

/-- LOG is present: the record count has reached the threshold (R152). -/
def State.logCause (s : State) : Bool := s.vlg.threshold ≤ s.vlg.log.length

/-- MONITOR is present: the Monitor Queue holds a record (R99). -/
def State.monitorCause (s : State) : Bool := !s.monitor.queue.isEmpty

/-- A master's attention set in delivery order (R201): SAFE, then the notices in the order their slots were
filled, then the other edge causes, then the station's level causes. -/
def State.attention (s : State) (m : Master) : List AttnEntry :=
  let x := s.attn.get m
  (x.edges.filter fun e => e.cause = .safe).map .edge ++ x.notices.map .notice ++
  (x.edges.filter fun e => e.cause ≠ .safe).map .edge ++
  (if m = .ssv ∧ s.logCause = true then [.log] else []) ++
  (if m = .ssv ∧ s.monitorCause = true then [.monitor] else [])

/-- The ATN line is driven low (R200). -/
def State.atnLow (s : State) (m : Master) : Bool := !(s.attention m).isEmpty

/-! ### Blink (R160) -/

/-- The blink phase of a rack time: ON while floor(rack time / 500) is even. -/
def blinkPhase (t : Time) : Bool := t.toNat / 500 % 2 = 0

end Sys2Proof.Machine
end

