-- ==== Sys2Proof/Machine/DisplayOps.lean ====
section
/-! DEFINITION. Shared operations of the Operator Display Controller (chapter 8). -/

namespace Sys2Proof.Machine

/-- The code of a cell. -/
def Odc.code (o : Odc) (cell : Nat) : Byte := Table.read (0x20 : Byte) o.codes cell

/-- Write the code of a cell; its attributes are kept (R157). -/
def Odc.setCode (cell : Nat) (x : Byte) (o : Odc) : Odc :=
  { o with codes := Table.write (0x20 : Byte) o.codes cell x }

/-- The attribute set of a cell. -/
def Odc.attr (o : Odc) (cell : Nat) : Attr := Table.read {} o.attrs cell

/-- Replace the attribute set of a cell; its code is kept (R157). -/
def Odc.setAttr (cell : Nat) (x : Attr) (o : Odc) : Odc := { o with attrs := Table.write {} o.attrs cell x }

/-- Set or clear one flag of an attribute set (R167). -/
def Attr.put (f : AttrFlag) (v : Bool) (x : Attr) : Attr :=
  match f with
  | .blink => { x with blink := v }
  | .inverse => { x with inverse := v }
  | .underline => { x with underline := v }

/-- Write a run of codes at a master's address, wrapping within its addressing (R165). -/
def writeRun (m : Master) : Nat → List Byte → Odc → Odc
  | _, [], o => o
  | a, x :: l, o => writeRun m (a + 1) l (o.setCode (cellOf m a) x)

/-- The codes of `n` cells from a master's address (R166). -/
def readRun (m : Master) (o : Odc) : Nat → Nat → List Byte
  | _, 0 => []
  | a, n + 1 => o.code (cellOf m a) :: readRun m o (a + 1) n

/-- Set or clear one flag on a run of cells (R167). -/
def attrRun (m : Master) (f : AttrFlag) (v : Bool) : Nat → Nat → Odc → Odc
  | _, 0, o => o
  | a, n + 1, o => attrRun m f v (a + 1) n (o.setAttr (cellOf m a) ((o.attr (cellOf m a)).put f v))

/-- Clear a run of cells: code 0x20, no attribute (R169). -/
def clearRun (m : Master) : Nat → Nat → Odc → Odc
  | _, 0, o => o
  | a, n + 1, o => clearRun m (a + 1) n ((o.setCode (cellOf m a) 0x20).setAttr (cellOf m a) {})

/-- Where a master's cursor stands `n` cells on (R165). -/
def advance (m : Master) (cursor n : Nat) : Nat := (cursor + n) % addressSpace m

/-- Every display request of a sender whose clear is in progress is refused BUSY before its own checks (R169). -/
def unlessClearing (m : Master) (rule : State → State × Answer) (s : State) : State × Answer :=
  if (s.access.get m).clear.isSome then (s, bare .busy) else rule s

/-- Entry to SAFE shows the alert page and blinks (R174). -/
def State.alert (bay : Bay) (s : State) : State :=
  let w := s.windows.get bay
  s.setWindow bay { w with
    savedStart := some w.start, start := (s.setups.get bay).alertPage, safeBlink := true }

/-- Leaving SAFE by RELEASE restores the window (R175). -/
def Window.restore (w : Window) : Window :=
  { w with start := w.savedStart.getD w.start, savedStart := none, safeBlink := false }

/-- A bay reset (R175): restored if the bay was in SAFE, both blinks cleared in every state. -/
def Window.bayReset (wasSafe : Bool) (w : Window) : Window :=
  if wasSafe then { w.restore with promptBlink := false } else { w with safeBlink := false, promptBlink := false }

end Sys2Proof.Machine
end

