-- ==== Sys2Proof/Machine/PromptOps.lean ====
section
/-! DEFINITION. Shared operations of the Prompt Unit (chapter 9) with the windows it moves (R173), and the hand-over
of a freed log place (R145). -/

namespace Sys2Proof.Machine

/-- *missed* of an answer given onto a slot (R184). -/
def missedOn : Option AnswerSlot → Nat
  | none => 0
  | some old => bumpTo 255 old.missed

/-- Write an answer into the bay's slot and raise PROMPT to the poster (R182, R184). -/
def State.answerPrompt (bay : Bay) (p : Prompt) (answer : Reply) (ms : Nat) (stepIndex : Option Nat) (s : State) :
    State :=
  let u := s.prus.get bay
  let slot : AnswerSlot :=
    { promptId := p.promptId, kind := p.kind, poster := p.poster, answer := answer, elapsed := ms
      stepIndex := stepIndex, missed := missedOn u.slot }
  (s.setPru bay { u with slot := some slot }).raise p.poster ⟨.prompt, some bay, .none⟩

/-- The Operator Display Controller takes an activation (R173). -/
def Window.activate (p : Prompt) (w : Window) : Window :=
  { w with start := p.page.getD w.start, promptBlink := p.blink }

/-- The Operator Display Controller takes the end of an active prompt (R173). -/
def State.endPromptWindow (bay : Bay) (s : State) : State :=
  s.setWindow bay { s.windows.get bay with promptBlink := false }

/-- Activate a prompt at the front, with the rest of the waiting list behind it (R179). -/
def State.activate (bay : Bay) (p : Prompt) (rest : List Prompt) (s : State) : State :=
  let expiry := if p.timeout = 0 then none else some (after s.rackTime p.timeout)
  (s.setPru bay { s.prus.get bay with front := .active p s.rackTime expiry, waiting := rest }).setWindow bay
    ((s.windows.get bay).activate p)

/-- Fill the front place from a list of prompts, oldest first (R178 to R180): an ACKNOWLEDGE or CHOICE prompt is
activated; a VISUAL prompt is activated with a reservation, waits PENDING for a place, or, when step admission refuses
it for good, is answered CANCELLED and the next is promoted (notes/assumptions/12.md). -/
def promote (bay : Bay) : List Prompt → State → State
  | [], s => s.setPru bay { s.prus.get bay with front := .empty, waiting := [] }
  | p :: rest, s =>
    if p.kind ≠ .visual then s.activate bay p rest
    else if !s.vlg.admits bay then promote bay rest (s.answerPrompt bay p .cancelled 0 none)
    else if s.vlg.room then (s.setVlg (s.vlg.reserve (.prompt bay))).activate bay p rest
    else s.setPru bay { s.prus.get bay with front := .pending p, waiting := rest }

/-- A PENDING front asks again for its reservation (R180); any other front is left as it is. -/
def askAgain (bay : Bay) (s : State) : State :=
  match (s.prus.get bay).front with
  | .pending p => promote bay (p :: (s.prus.get bay).waiting) s
  | _ => s

/-- The front of a bay waits for a place. -/
def State.frontPending (s : State) (bay : Bay) : Bool :=
  match (s.prus.get bay).front with
  | .pending _ => true
  | _ => false

/-- The Verdict Log hands a freed place to both Prompt Units (R145). Only when both wait does their order matter; the
manual leaves it open and the model takes it from `Config.bayAFirst` (notes/assumptions/10.md). The fronts ask inside the
event that frees the place, as 95_what_each_step_holds.md lists the ask within these steps; R145 and R180 let the ask meet
other requests in either order, and that none comes between is the model's (notes/assumptions/45.md). -/
def handOver (s : State) : State :=
  if s.frontPending .a && s.frontPending .b then
    let s1 := { s with choices := s.choices + 1 }
    if Config.bayAFirst s.choices then askAgain .b (askAgain .a s1) else askAgain .a (askAgain .b s1)
  else askAgain .b (askAgain .a s)

/-- Release a STEP reservation to the log without handing its place on yet (R145). -/
def State.release (h : Holder) (s : State) : State := s.setVlg (s.vlg.unreserve h)

/-- The step of an answered VISUAL prompt (R182). -/
def visualDraft (p : Prompt) (answer : Reply) : StepDraft where
  source   := .prompt
  verdict  := match answer with
    | .yes => .pass
    | .no => .fail
    | _ => .error
  value    := none
  limit    := none
  promptId := some p.promptId
  flags    := { timeout := answer = .timeout }

/-- The active prompt ends by a key or by TIMEOUT (R182). -/
def answerActive (bay : Bay) (p : Prompt) (answer : Reply) (ms : Nat) (s : State) : State :=
  let s1 := if p.kind = .visual then s.writeStep bay (some (.prompt bay)) (visualDraft p answer) else s
  let index := if p.kind = .visual then some (s.vlg.stepsWritten.get bay) else none
  promote bay (s.prus.get bay).waiting ((s1.answerPrompt bay p answer ms index).endPromptWindow bay)

/-- The active prompt is cancelled (R185), up to the promotion: reservation released, answer CANCELLED, window end. -/
def cancelActive (bay : Bay) (p : Prompt) (since : Time) (s : State) : State :=
  let s1 := if p.kind = .visual then s.release (.prompt bay) else s
  (s1.answerPrompt bay p .cancelled (elapsed s.rackTime since) none).endPromptWindow bay

/-- A bay event ends every prompt of the bay (R186): the front is answered CANCELLED, the waiting list is discarded,
no promotion follows; a place it frees is handed over. -/
def promptTeardown (bay : Bay) (s : State) : State :=
  match (s.prus.get bay).front with
  | .empty => s.setPru bay { s.prus.get bay with waiting := [] }
  | .pending p =>
    let s1 := s.answerPrompt bay p .cancelled 0 none
    s1.setPru bay { s1.prus.get bay with front := .empty, waiting := [] }
  | .active p since _ =>
    let s1 := cancelActive bay p since s
    let s2 := s1.setPru bay { s1.prus.get bay with front := .empty, waiting := [] }
    if p.kind = .visual then handOver s2 else s2

end Sys2Proof.Machine
end

