-- ==== Sys2Proof/Machine/MeasureOps.lean ====
section
/-! DEFINITION. Shared operations of the Measurement Unit: arbiter, phases, completion and abort (chapter 5). -/

namespace Sys2Proof.Machine

/-! ### Claims and the arbiter (R101 to R106) -/

/-- A requester's claim record. -/
def State.claim (s : State) (m : Master) : Claim := s.meu.claims.get m

/-- Replace a requester's claim record. -/
def State.setClaim (m : Master) (c : Claim) (s : State) : State :=
  s.setMeu { s.meu with claims := s.meu.claims.set m c }

/-- The record holds the grant or is REVOKING. -/
def Claim.granted : Claim → Bool
  | .holding _ _ _ _ | .revoking _ _ _ _ => true
  | _ => false

/-- Some record is HOLDING or REVOKING. -/
def Meu.busy (x : Meu) : Bool := x.claims.bsqA.granted || x.claims.bsqB.granted || x.claims.ssv.granted

/-- The record waits URGENT. -/
def Claim.urgent : Claim → Bool
  | .waiting .urgent _ => true
  | _ => false

/-- The priority a record waits or holds with. -/
def Claim.priority : Claim → Priority
  | .none => .normal
  | .waiting p _ => p
  | .holding p _ _ _ => p
  | .revoking p _ _ _ => p

/-- The hold limit of a requester (R102): the bay's *hold_limit*, 250 ms for the station. -/
def State.holdLimit (s : State) (m : Master) : Nat :=
  match masterBay m with
  | some bay => (s.setups.get bay).holdLimit
  | none => 250

/-- The first waiter (R104): URGENT before NORMAL, each in the order of first claims. -/
def Meu.firstWaiter (x : Meu) : Option Master :=
  match x.waiters.find? fun m => (x.claims.get m).urgent with
  | some m => some m
  | none => x.waiters.head?

/-- The arbiter (R104): with no record HOLDING or REVOKING, the first waiter is granted. `own` is the requester
whose own MEU CLAIM is being taken, which is told by its answer and not by RESULT. -/
def State.arbitrate (own : Option Master) (s : State) : State :=
  if s.meu.busy then s
  else match s.meu.firstWaiter with
    | none => s
    | some m =>
      let limit := s.holdLimit m
      let s1 := s.setMeu { s.meu with
        claims := s.meu.claims.set m (.holding (s.claim m).priority s.rackTime limit false)
        waiters := s.meu.waiters.erase m
        holdTimer := some (after s.rackTime limit) }
      if own = some m then s1 else s1.raise m ⟨.result, masterBay m, .grant⟩

/-- The requester's measurement is in flight. -/
def State.measuring (s : State) (m : Master) : Bool :=
  match s.meu.inFlight with
  | some x => x.requester = m
  | none => false

/-- Withdraw the grant of a requester with PREEMPT (R106). -/
def State.withdraw (m : Master) (s : State) : State :=
  (s.setClaim m .none).raise m ⟨.preempt, masterBay m, .none⟩

/-- A revoke of the holder (R106): withdrawn at once with nothing in flight, REVOKING otherwise. -/
def State.revoke (own : Option Master) (m : Master) (p : Priority) (t : Time) (limit : Nat) (s : State) : State :=
  let s1 := s.setMeu { s.meu with holdTimer := none }
  if s.measuring m then s1.setClaim m (.revoking p t limit false)
  else (s1.withdraw m).arbitrate own

/-- The revoke conditions of R105 against one record. -/
def State.testRevokeOf (own : Option Master) (m : Master) (s : State) : State :=
  match s.claim m with
  | .holding p t limit false =>
    if (s.meu.waiters.any (fun w => (s.claim w).urgent) ∧ p = .normal) ∨
        (s.meu.waiters ≠ [] ∧ limit ≤ elapsed s.rackTime t) then s.revoke own m p t limit
    else s
  | _ => s

/-- The requester that is HOLDING, if one is. -/
def Meu.holder (x : Meu) : Option Master :=
  let is : Master → Bool := fun m => match x.claims.get m with | .holding _ _ _ _ => true | _ => false
  [Master.bsqA, .bsqB, .ssv].find? is

/-- Test the revoke conditions against the present holder (R105). -/
def State.testRevoke (own : Option Master) (s : State) : State :=
  match s.meu.holder with
  | some m => s.testRevokeOf own m
  | none => s

/-- What the end of a requester's measurement does to its record (R107, R114, R118); `quiet` marks an abort by the
teardown of the requester's own bay, which raises no PREEMPT. -/
def State.endGrant (quiet : Bool) (m : Master) (s : State) : State :=
  match s.claim m with
  | .revoking _ _ _ false => (if quiet then s.setClaim m .none else s.withdraw m).arbitrate none
  | .revoking _ _ _ true => (s.setClaim m .none).arbitrate none
  | .holding _ _ _ true => (s.setClaim m .none).arbitrate none
  | _ => s

/-! ### The sense connection and the phases (R111, R112) -/

/-- A CONNECTING or CONNECTED record becomes DISCONNECTING for 3 ms; an absent or DISCONNECTING one stays (R112). -/
def Sense.drop (now : Time) (x : Sense) : Sense :=
  match x.state with
  | .connecting _ | .connected => { x with state := .disconnecting (after now 3) }
  | .disconnecting _ => x

/-- Set the sense connection DISCONNECTING. -/
def State.dropSense (s : State) : State :=
  s.setMeu { s.meu with sense := s.meu.sense.map (Sense.drop s.rackTime) }

/-- The record of a relay just commanded closed (R112). -/
def connecting (bay : Bay) (pin : Nat) (now : Time) : Sense :=
  { target := some (bay, pin), state := .connecting (after now 3) }

/-- The phase that SETTLE begins in (R111): with *settle* 0 SAMPLING at once. -/
def settlePhase (settle : Nat) (now : Time) : MeasPhase :=
  if settle = 0 then .sampling else .settle (after now settle)

/-- The phase without its end time (R111). -/
def MeasPhase.name : MeasPhase → PhaseName
  | .connect => .connect
  | .settle _ => .settle
  | .sampling => .sampling

/-! ### Completion and abort (R114, R118) -/

/-- The detail of RESULT COMPLETE: the measured bay, which for a bay requester is its own (R117). -/
def completeEdge (x : Measurement) : Edge := ⟨.result, some x.bay, .complete⟩

/-- Fill the requester's result slot (R116). -/
def State.fillSlot (x : Measurement) (st : ResultStatus) (s : State) : State :=
  s.setMeu { s.meu with slots := s.meu.slots.set x.requester (some
    { bay := x.bay, range := x.range, channel := x.channel, samples := x.samples, settle := x.settle
      limit := x.limit, status := st, time := s.rackTime }) }

/-- The step of a completed limit measurement (R115). -/
def measureDraft (limit : Nat) (e : Int) (f : ResultFlags) (v : StepVerdict) : StepDraft where
  source   := .measure
  verdict  := v
  value    := some e
  limit    := some limit
  promptId := none
  flags    := { clipped := f.clipped, sat := f.sat, uncal := f.uncal }

/-- The completion event of a measurement (R114), in the order R114 lists. -/
def completeMeasurement (x : Measurement) (s : State) : State :=
  let r := measured x.codes x.range (Table.read {} s.cal.recs (calPosition x.bay x.range)) s.cal.uncal
  let v : Option StepVerdict := x.limit.map fun l => limitVerdict (Table.read {} s.limits l) r.1 r.2
  let s1 := match x.limit, v with
    | some l, some v => s.writeStep x.bay (some (.measure x.bay)) (measureDraft l r.1 r.2 v)
    | _, _ => s
  let s2 := s1.fillSlot x (.done r.1 r.2 v (x.limit.map fun _ => s.vlg.stepsWritten.get x.bay))
  let s3 := (s2.dropSense.raise x.requester (completeEdge x)).count x.bay .measurements
  let s4 := if r.2.clipped || r.2.sat then s3.count x.bay .overranges else s3
  (s4.setMeu { s4.meu with inFlight := none }).endGrant false x.requester

/-- The abort of a measurement in flight (R118), in the order R118 lists; the place it frees is handed over last. -/
def abortMeasurement (quiet : Bool) (x : Measurement) (s : State) : State :=
  let s1 := match x.limit with
    | some _ => s.release (.measure x.bay)
    | none => s
  let s2 := ((s1.fillSlot x (.aborted x.phase.name)).dropSense).raise x.requester (completeEdge x)
  let s3 := (s2.setMeu { s2.meu with inFlight := none }).endGrant quiet x.requester
  if x.limit.isSome then handOver s3 else s3

/-- Abort the bay sequencer's own measurement, if it is in flight (R119). -/
def abortOwn (bay : Bay) (s : State) : State :=
  match s.meu.inFlight with
  | some x => if x.requester = sequencer bay then abortMeasurement true x s else s
  | none => s

/-- Abort the station's measurement tagged for the bay, if it is in flight (R119, R120). -/
def abortStation (bay : Bay) (s : State) : State :=
  match s.meu.inFlight with
  | some x => if x.requester = .ssv ∧ x.bay = bay then abortMeasurement false x s else s
  | none => s

/-- The bay's claim record becomes NONE from whatever state it was in; if it had the grant, the arbiter grants
(R119). -/
def dropClaim (bay : Bay) (s : State) : State :=
  let m := sequencer bay
  let had := (s.claim m).granted
  let s1 := s.setMeu { s.meu with
    claims := s.meu.claims.set m .none
    waiters := s.meu.waiters.erase m
    holdTimer := match s.claim m with
      | .holding _ _ _ _ => none
      | _ => s.meu.holdTimer }
  if had then s1.arbitrate none else s1

/-- The bay leaves POWERED or TESTING (R119): the aborts first, then the claim, each with its own grant. Where the abort
of the station's measurement finds the torn-down bay as the first waiter, the arbiter grants to it with RESULT GRANT, and
the claim step drops that grant and grants again, although R119 says that the grant moves once (DEDUCED,
notes/assumptions/43.md). -/
def meuTeardown (bay : Bay) (s : State) : State := dropClaim bay (abortStation bay (abortOwn bay s))

end Sys2Proof.Machine
end

