-- ==== Sys2Proof/Machine/SourceOps.lean ====
section
/-! DEFINITION. Shared operations of the Source Pool and the Pin Matrix (chapter 2). -/

namespace Sys2Proof.Machine

/-- The eight sources. -/
def allSources : List (Fin 8) := [0, 1, 2, 3, 4, 5, 6, 7]

/-- A Source record by number (R33). -/
def State.source (s : State) (i : Fin 8) : Source := Table.read {} s.sources i.val

/-- Replace a Source record. -/
def State.setSource (i : Fin 8) (x : Source) (s : State) : State :=
  { s with sources := Table.write {} s.sources i.val x }

/-- S0 to S3 are pulse sources, S4 to S7 level sources (R33). -/
def isPulse (i : Fin 8) : Bool := i.val < 4

/-- The bay states in which a source may be unparked (R34). -/
def BayState.stimulates : BayState → Bool
  | .powering | .powered | .testing => true
  | _ => false

/-- The programmed setting as a period to run, absent where it holds the output constant (R45). -/
def Source.programmed (x : Source) : Option (Nat × Nat) :=
  if 0 < x.highTicks ∧ x.highTicks < x.periodTicks then some (x.periodTicks, x.highTicks) else none

/-- A route in transition (R40). -/
def RouteState.moving : RouteState → Bool
  | .closing _ | .opening _ => true
  | .closed => false

/-- A route whose relay is commanded closed. -/
def RouteState.makes : RouteState → Bool
  | .closing _ | .closed => true
  | .opening _ => false

/-- The law of R34: when the source numbered `i` is parked. -/
def State.mustPark (s : State) (i : Nat) (x : Source) : Bool :=
  match x.owner with
  | none => true
  | some bay => !(s.bayState bay).stimulates || s.routes.any fun r => r.source.val = i && r.state.moving

/-- Park or unpark a source (R34, R35): parking abandons the period, unparking starts the programmed setting. -/
def Source.repark (park : Bool) (x : Source) : Source :=
  if park then { x with parked := true, generator := none }
  else if x.parked then { x with parked := false, generator := x.programmed }
  else x

/-- Evaluate *parked* again for every source (R34). -/
def State.repark (s : State) : State :=
  { s with sources := Table.mapAll {} (fun i x => x.repark (s.mustPark i x)) s.sources }

/-- A new programmed setting reaches the output of an unparked source at once while it holds, and at the end of the
period while it runs one (R45). -/
def Source.program (x : Source) : Source :=
  if x.parked then x
  else if x.generator.isNone then { x with generator := x.programmed }
  else x

/-! ### Reports (R44, R52) -/

/-- The kind of a source (R33). -/
def kindOfSource (i : Fin 8) : SourceKind := if isPulse i then .pulse else .level

/-- The owner as SOURCE READ returns it (R52). -/
def Source.ownerReport (x : Source) : OwnerReport :=
  match x.owner with
  | none => .free
  | some bay => if x.freeing then .freeing else match bay with
    | .a => .a
    | .b => .b

/-- The programmed setting by the kind of the source (R44, R52). -/
def Source.settingReport (i : Fin 8) (x : Source) : SettingReport :=
  if isPulse i then .pulse x.mode x.periodTicks x.highTicks x.duty else .level x.levelCode

/-- A route state without its end time (R52). -/
def RouteState.name : RouteState → RouteName
  | .closing _ => .closing
  | .closed => .closed
  | .opening _ => .opening

/-- A route record as SOURCE READ returns it (R52). -/
def Route.report (r : Route) : RouteReport := { bay := r.bay, pin := r.pin, state := r.state.name }

/-- The route records of a source, oldest first (R52). -/
def State.routesOf (s : State) (i : Fin 8) : List Route := s.routes.filter fun r => r.source = i

/-- Command a relay open: CLOSED or CLOSING becomes OPENING for 3 ms, OPENING keeps its end (R42). -/
def Route.command (now : Time) (r : Route) : Route :=
  if r.state.makes then { r with state := .opening (after now 3) } else r

/-- Command open every route that `p` names. -/
def State.openRoutes (p : Route → Bool) (s : State) : State :=
  { s with routes := s.routes.map fun r => if p r then r.command s.rackTime else r }

/-- Every route of a bay opens (R43). -/
def State.openBayRoutes (bay : Bay) (s : State) : State := s.openRoutes fun r => r.bay = bay

/-- End the claim on a source (R37, R38): FREE at once without routes, *freeing* while its routes open. -/
def State.freeSource (i : Fin 8) (s : State) : State :=
  if (s.routesOf i).isEmpty then s.setSource i {}
  else if (s.source i).freeing then s
  else (s.openRoutes fun r => r.source = i).setSource i { s.source i with freeing := true }

/-- End every claim of a bay (R39). -/
def State.endClaims (bay : Bay) (s : State) : State :=
  allSources.foldl (fun t i => if (t.source i).owner = some bay then t.freeSource i else t) s

end Sys2Proof.Machine
end

