-- ==== Sys2Proof/Machine/NetworkOps.lean ====
section
/-! DEFINITION. Shared operations of the Network Stimulus Engine (chapter 3) and the Monitor Queue's offer (R98). -/

namespace Sys2Proof.Machine

/-! ### Queues and runtime records -/

/-- A class queue. -/
def Queues.get (q : Queues) : Cls → List Nat
  | .c3 => q.q3
  | .c2 => q.q2
  | .c1 => q.q1
  | .c0 => q.q0

/-- Replace a class queue. -/
def Queues.set (q : Queues) : Cls → List Nat → Queues
  | .c3, l => { q with q3 := l }
  | .c2, l => { q with q2 := l }
  | .c1, l => { q with q1 := l }
  | .c0, l => { q with q0 := l }

/-- The runtime record of an entry (R56). -/
def Net.rt (n : Net) (i : Nat) : Runtime := Table.read {} n.runtime i

/-- Replace the runtime record of an entry. -/
def Net.setRt (i : Nat) (x : Runtime) (n : Net) : Net := { n with runtime := Table.write {} n.runtime i x }

/-- Append an entry at the tail of its class queue and set *queued* (R65). -/
def Net.enqueue (c : Cls) (i : Nat) (n : Net) : Net :=
  let n1 : Net := { n with queues := n.queues.set c (n.queues.get c ++ [i]) }
  n1.setRt i { n.rt i with queued := true }

/-- Flush the class queues: every entry removed, *queued* and *repeat_left* cleared (R77, R79). -/
def Net.flush (n : Net) : Net :=
  { n with
    queues := {}
    runtime := Table.mapAll {} (fun _ x => { x with queued := false, repeatLeft := 0 }) n.runtime }

/-! ### Tokens (R68, R69) -/

/-- The cost of a frame of `length` data bytes (R69). -/
def frameCost (length : Nat) : Int := 47 + 8 * length

/-- The accrual of one millisecond (R68). -/
def accrual (bitRate : Nat) (p : Setup) : Int := bitRate * p.loadLimit / 100

/-- Debit a cost, down to the floor of -*bucket_depth* (R68, R69). -/
def Net.debit (p : Setup) (cost : Int) (n : Net) : Net :=
  { n with tokens := max (n.tokens - cost) (-(p.bucketDepth : Int)) }

/-- The weight of a class in the rotation (R67). -/
def Setup.weight (p : Setup) : Cls → Nat
  | .c2 => p.w2
  | .c1 => p.w1
  | _ => p.w0

/-- The rotation of the classes: 2, 1, 0, 2 (R67). -/
def Cls.next : Cls → Cls
  | .c2 => .c1
  | .c1 => .c0
  | .c0 => .c2
  | .c3 => .c2

/-- The first class with a waiting frame in the cycle that starts at `c`, with its head. -/
def Queues.rotation (q : Queues) (c : Cls) : Option (Cls × Nat) :=
  match q.get c with
  | e :: _ => some (c, e)
  | [] => match q.get c.next with
    | e :: _ => some (c.next, e)
    | [] => match q.get c.next.next with
      | e :: _ => some (c.next.next, e)
      | [] => none

/-- The credit step when a rotation frame of class `c` starts (R67). -/
def Net.spend (p : Setup) (c : Cls) (n : Net) : Net :=
  let credit := (if c = n.curClass then n.credit else p.weight c) - 1
  if credit = 0 then { n with curClass := c.next, credit := p.weight c.next }
  else { n with curClass := c, credit := credit }

/-! ### Forming and starting a frame (R70, R71) -/

/-- Write an alive count into a nibble of a byte (R70): LOW replaces the low four bits, HIGH the high four. -/
def aliveByte (high : Bool) (count : Nat) (x : Byte) : Byte :=
  if high then (x &&& 0x0F) ||| BitVec.ofNat 8 (count % 16 * 16)
  else (x &&& 0xF0) ||| BitVec.ofNat 8 (count % 16)

/-- The sum of a list of bytes. -/
def byteSum (l : List Byte) : Nat := (l.map BitVec.toNat).sum

/-- The checksum of R71 over the transmitted bytes other than the one at `at_`. -/
def checksum (ident : Nat) (bytes : List Byte) (at_ : Nat) : Byte :=
  BitVec.ofNat 8 ((ident % 256 + ident / 256 + byteSum (bytes.eraseIdx at_)) % 256) ^^^ 0xFF

/-- The bytes of a frame at its first attempt (R70). -/
def formBytes (d : FrameDef) (aliveCount : Nat) : List Byte :=
  let p := match d.alive with
    | some (pos, nib) => d.payload.set pos.toNat (aliveByte (nib ≠ 0) aliveCount (d.payload.get pos.toNat))
    | none => d.payload
  let l := p.toList.take d.length
  match d.checksum with
  | some c => l.set c.toNat (checksum d.ident l c.toNat)
  | none => l

/-- Start the first attempt of an entry's frame (R69, R70). -/
def Net.start (p : Setup) (d : FrameDef) (c : Cls) (i : Nat) (n : Net) : Net :=
  let x : Current :=
    { entry := i, cls := c, attempts := 1, ident := d.ident, bytes := formBytes d (n.rt i).aliveCount
      onLine := true, arbLost := false, finishing := false, stale := false }
  { n.debit p (frameCost d.length) with current := some x }

/-- The selection of R67 on a bay's part of the engine, with no frame from the unit on the line: while the port is
ACTIVE and free. -/
def Net.select (p : Setup) (frames : Table FrameDef) (n : Net) : Net :=
  if n.portState = .active ∧ n.current.isNone = true ∧ n.lineBusy = false then
    match n.queues.q3 with
    | e :: _ => n.start p (Table.read {} frames e) .c3 e
    | [] => match n.queues.rotation n.curClass with
      | none => n
      | some (c, e) =>
        let d := Table.read {} frames e
        if frameCost d.length ≤ n.tokens then (n.spend p c).start p d c e else n
  else n

/-- The selection of R67 for a bay in an event that ends a frame on its line: the line is idle. -/
def State.selectIdle (bay : Bay) (s : State) : State :=
  s.setNet bay ((s.nets.get bay).select (s.setups.get bay) s.frames)

/-- The selection of R67 for a bay in any other event. Where a frame would start, a frame from the unit may be on the
line: whether one is is a free choice (`Config.unitOnLine`, notes/assumptions/8.md). If one is, nothing starts (R60). -/
def State.select (bay : Bay) (s : State) : State :=
  let n := (s.nets.get bay).select (s.setups.get bay) s.frames
  if n.current = (s.nets.get bay).current then s
  else if Config.unitOnLine s.choices then { s with choices := s.choices + 1 }
  else { s.setNet bay n with choices := s.choices + 1 }

/-! ### Scheduling (R62, R63) -/

/-- Give every valid periodic entry of the bay with the named gate its first due time. -/
def Net.schedule (bay : Bay) (wake : Bool) (now : Time) (frames : Table FrameDef) (n : Net) : Net :=
  frames.foldl (fun m e =>
    if e.2.valid && e.2.hasMember bay && e.2.wake = wake && decide (0 < e.2.period) then
      m.setRt e.1 { m.rt e.1 with nextDue := some (after now e.2.phase) }
    else m) n

/-- *alive_count* becomes 0 in the runtime record of every valid entry of the bay (R62). -/
def Net.clearAlive (bay : Bay) (frames : Table FrameDef) (n : Net) : Net :=
  frames.foldl (fun m e =>
    if e.2.valid && e.2.hasMember bay then m.setRt e.1 { m.rt e.1 with aliveCount := 0 } else m) n

/-- The runtime record of the frame being sent has been reset since its first attempt (R80). -/
def Current.restale (c : Current) : Current := { c with stale := true }

/-- Entry to POWERED (R62): the port comes into service. A frame of an earlier session that is still finishing
keeps its place and will leave the runtime record alone (R80). -/
def State.portOn (bay : Bay) (s : State) : State :=
  let n := s.nets.get bay
  let p := s.setups.get bay
  let n1 : Net := { n with
    portState := .active, bitRate := p.bitRate, tokens := p.bucketDepth, fails := 0
    curClass := .c2, credit := p.w2, lineBusy := false, accruedAt := s.rackTime
    current := n.current.map Current.restale }
  (s.setNet bay ((n1.clearAlive bay s.frames).schedule bay true s.rackTime s.frames)).select bay

/-- Entry to TESTING (R63): the RUN entries are scheduled. -/
def State.scheduleRun (bay : Bay) (s : State) : State :=
  s.setNet bay ((s.nets.get bay).schedule bay false s.rackTime s.frames)

/-! ### Ends of frames (R76, R79, R80) -/

/-- *alive_count* advances by one, from 15 to 0 (R76). -/
def Net.advanceAlive (i : Nat) (n : Net) : Net :=
  n.setRt i { n.rt i with aliveCount := ((n.rt i).aliveCount + 1) % 16 }

/-- The port goes OFF (R79): queues flushed, no entry due; a frame on the line finishes, a frame waiting for the
line is dropped. -/
def State.portOff (bay : Bay) (s : State) : State :=
  let n := s.nets.get bay
  let off : Net := { n.flush with portState := .off, tokens := 0, lineBusy := false }
  let cleared : Net := { off with runtime := Table.mapAll {} (fun _ x => { x with nextDue := none }) off.runtime }
  match n.current with
  | some c =>
    if c.onLine then s.setNet bay { cleared with current := some { c with finishing := true } }
    else (s.setNet bay (Net.advanceAlive c.entry { cleared with current := none })).count bay .txDrops
  | none => s.setNet bay cleared

/-- The end of a frame, ACKED or dropped (R76). -/
def Net.endFrame (c : Current) (n : Net) : Net :=
  let x := n.rt c.entry
  let n1 : Net := { n with current := none, queues := n.queues.set c.cls ((n.queues.get c.cls).erase c.entry) }
  let left := x.repeatLeft - 1
  let n2 := n1.setRt c.entry
    { x with queued := false, aliveCount := (x.aliveCount + 1) % 16, repeatLeft := left }
  if 0 < left then n2.enqueue c.cls c.entry else n2

/-! ### The Monitor Queue (R98) -/

/-- Offer a record: appended while the queue holds fewer than 64, otherwise dropped and counted. -/
def State.offer (x : MonRec) (s : State) : State :=
  if s.monitor.queue.length < 64 then { s with monitor := { s.monitor with queue := s.monitor.queue ++ [x] } }
  else { s with monitor := { s.monitor with drops := bumpTo 65535 s.monitor.drops } }

/-- Mirror an ACKED frame (R72): the entry's *mirror* and the bay's *mirror_tx* are both set. -/
def State.mirrorTx (bay : Bay) (c : Current) (s : State) : State :=
  if (s.frame c.entry).mirror ∧ (s.setups.get bay).mirrorTx then
    s.offer { direction := .tx, bay := bay, ident := c.ident, data := c.bytes, time := s.rackTime }
  else s

end Sys2Proof.Machine
end

