-- ==== Sys2Proof/Machine/ResponseOps.lean ====
section
/-! DEFINITION. Shared operations of the Response Monitor (chapter 4). -/

namespace Sys2Proof.Machine

/-- The entry at an index of the Response Table. -/
def State.respAt (s : State) (i : Nat) : Option Resp := Table.read none s.responses i

/-- Replace, make or remove the entry at an index. -/
def State.setResp (i : Nat) (x : Option Resp) (s : State) : State :=
  { s with responses := Table.write none s.responses i x }

/-- The entry is of the key. -/
def Resp.isKey (bay : Bay) (ident : Nat) (r : Resp) : Bool := r.bay = bay && r.ident = ident

/-- The index and entry of a key (R83). -/
def State.findKey (s : State) (bay : Bay) (ident : Nat) : Option (Nat × Resp) :=
  s.responses.findSome? fun p => match p.2 with
    | some r => if r.isKey bay ident then some (p.1, r) else none
    | none => none

/-- The lowest index of 0 to 127 that holds no entry (R84); none when the table holds 128. -/
def State.freeIndex (s : State) : Option Nat := (List.range 128).find? fun i => (s.respAt i).isNone

/-- How many PINNED entries a bay has (R83). -/
def State.pinned (s : State) (bay : Bay) : Nat :=
  s.responses.countP fun p => match p.2 with
    | some r => r.bay = bay && r.expectation.isSome
    | none => false

/-- The shortest and longest spacing after one more gap (R86). -/
def takeGap (g : Nat) : Option (Nat × Nat) → Nat × Nat
  | none => (g, g)
  | some (lo, hi) => (if g < lo then g else lo, if hi < g then g else hi)

/-- A frame of the key updates the entry (R86, R87). -/
def Resp.update (now : Time) (data : List Byte) (r : Resp) : Resp :=
  let payload := B8.ofList data
  { r with
    gaps := match r.last with
      | some l => some (takeGap (elapsed now l.seen) r.gaps)
      | none => r.gaps
    last := some { payload := payload, length := data.length, seen := now }
    mismatch := match r.expectation with
      | some x => if maskMatches x payload then r.mismatch else bumpTo 255 r.mismatch
      | none => r.mismatch
    count := bumpTo 65535 r.count }

/-- The entry a first frame makes (R88). -/
def learned (bay : Bay) (ident : Nat) (now : Time) (data : List Byte) : Resp :=
  ({ bay := bay, ident := ident, expectation := none } : Resp).update now data

/-- Change every entry. -/
def State.mapResp (f : Resp → Option Resp) (s : State) : State :=
  { s with responses := Table.mapAll none (fun _ x => x.bind f) s.responses }

/-- Every LEARNED entry of the bay is removed (R91). -/
def State.flushLearned (bay : Bay) (s : State) : State :=
  s.mapResp fun r => if r.bay = bay ∧ r.expectation = none then none else some r

/-- Every PINNED entry of the bay has its runtime fields reset (R91). -/
def State.resetPinned (bay : Bay) (s : State) : State :=
  s.mapResp fun r =>
    if r.bay = bay ∧ r.expectation ≠ none then
      some { bay := r.bay, ident := r.ident, expectation := r.expectation }
    else some r

/-- The report of an unknown frame to the Bay Controller (R89): taken in TESTING, ignored otherwise. -/
def State.reportUnknown (bay : Bay) (s : State) : State :=
  if s.bayState bay = .testing then s.setCtx bay { (s.bays.get bay).ctx with unknownSeen := true } else s

end Sys2Proof.Machine
end

