-- ==== Sys2Proof/Machine/BayOps.lean ====
section
/-! DEFINITION. Shared operations of the Bay Controllers (chapter 1): moving between states, the waits, the bay
events handed to the other blocks (R29). A requester is the master whose request causes a change, absent for an
edge, an expiry or an operator key (R8). -/

namespace Sys2Proof.Machine

/-! ### Movement -/

/-- The fixture outputs of a state and phase (R4); `held` is the value CLAMP keeps in SAFE. -/
def fixtureOutputs (held : Bool) : BayState → Option Phase → Outputs
  | .vacant, _ => ⟨false, false, false⟩
  | .loaded, _ => ⟨false, false, false⟩
  | .clamping, _ => ⟨true, false, false⟩
  | .clamped, _ => ⟨true, false, false⟩
  | .contacting, _ => ⟨true, true, false⟩
  | .contacted, _ => ⟨true, true, false⟩
  | .powering, _ => ⟨true, true, true⟩
  | .powered, _ => ⟨true, true, true⟩
  | .testing, _ => ⟨true, true, true⟩
  | .closing, some .powerDown => ⟨true, true, false⟩
  | .closing, some .retract => ⟨true, false, false⟩
  | .closing, some .unclamp => ⟨false, false, false⟩
  | .closing, none => ⟨false, false, false⟩
  | .safe, _ => ⟨held, false, false⟩

/-- A Bay Controller in a new state and phase: the outputs of R4, the timer of the state left cancelled (R5). -/
def BayCtl.moveTo (st : BayState) (phase : Option Phase) (x : BayCtl) : BayCtl :=
  { x with
    ctx := { x.ctx with state := st, phase := phase }
    out := fixtureOutputs x.out.clamp st phase
    timer := none }

/-- Enter a state and phase. A state change is reported by R8 and *parked* is evaluated again (R34). -/
def State.moveTo (requester : Option Master) (bay : Bay) (st : BayState) (phase : Option Phase) (s : State) : State :=
  let s1 := (s.setBay bay ((s.bays.get bay).moveTo st phase)).repark
  if s.bayState bay = st then s1 else s1.raiseBay .bayState requester bay

/-- Set the lamp (R28). -/
def State.setLamp (bay : Bay) (l : Lamp) (s : State) : State := s.setBay bay { s.bays.get bay with lamp := l }

/-- Start the fixture timer (R5). -/
def State.startTimer (bay : Bay) (purpose : TimerPurpose) (ms : Nat) (s : State) : State :=
  s.setBay bay { s.bays.get bay with timer := some ⟨after s.rackTime ms, purpose⟩ }

/-- Entry to VACANT (R17, R39): no unit verdict, lamp OFF, the bay's source claims end. -/
def State.vacate (bay : Bay) (s : State) : State :=
  let x := s.bays.get bay
  (s.setBay bay { x with ctx := { x.ctx with unitVerdict := none }, lamp := .off }).endClaims bay

/-- The bay enters LOADED or VACANT by UNIT_PRESENT (R16, R23, R24). -/
def State.enterOpen (requester : Option Master) (bay : Bay) (s : State) : State :=
  if (s.inputs.get bay).unitPresent then s.moveTo requester bay .loaded none
  else (s.moveTo requester bay .vacant none).vacate bay

/-! ### Bay events handed to the other blocks (R29) -/

/-- Entry to CLOSING, entry to SAFE and bay reset in the other blocks: routes open (R43), learned entries go (R91),
prompts end (R186). From POWERED or TESTING the port goes OFF (R79) and the Measurement Unit drops the bay (R119);
from another state SAFE and bay reset abort a station measurement of the bay (R120). -/
def State.tearDown (bay : Bay) (live stopStation : Bool) (s : State) : State :=
  let s1 := promptTeardown bay ((s.openBayRoutes bay).flushLearned bay)
  if live then meuTeardown bay (s1.portOff bay)
  else if stopStation then abortStation bay s1
  else s1

/-- Enter SAFE with a cause (R21). -/
def enterSafe (requester : Option Master) (bay : Bay) (cause : SafeCause) (s : State) : State :=
  let st := s.bayState bay
  let s1 := s.moveTo requester bay .safe none
  let x := s1.bays.get bay
  let s2 := s1.setBay bay { x with ctx := { x.ctx with safeCause := some cause }, lamp := .safe }
  let s3 := if st = .testing then s2.endUnit bay .aborted (some (.safe cause)) else s2
  let s4 := (s3.raiseBay .safe none bay).count bay .safeEntries
  (s4.tearDown bay st.live true).alert bay

/-! ### Waits (R5, R6) -/

/-- A feedback wait not ended at once: the timer starts; with a duration of 0 its expiry is taken at once. -/
def awaitFeedback (requester : Option Master) (bay : Bay) (purpose : TimerPurpose) (ms : Nat) (s : State) : State :=
  if ms = 0 then enterSafe requester bay .fixtureTimeout s else s.startTimer bay purpose ms

/-- Enter CLAMPING (R9, R23). -/
def enterClamping (requester : Option Master) (bay : Bay) (s : State) : State :=
  let s1 := s.moveTo requester bay .clamping none
  if (s1.inputs.get bay).clampClosed then s1.moveTo requester bay .clamped none
  else awaitFeedback requester bay .clampFeedback (s1.setups.get bay).clampTimeout s1

/-- Enter CONTACTING (R10). -/
def enterContacting (requester : Option Master) (bay : Bay) (s : State) : State :=
  let s1 := s.moveTo requester bay .contacting none
  if (s1.inputs.get bay).contactMade then s1.moveTo requester bay .contacted none
  else awaitFeedback requester bay .contactFeedback (s1.setups.get bay).contactTimeout s1

/-- Enter POWERED (R11): the network port comes into service (R62). -/
def enterPowered (requester : Option Master) (bay : Bay) (s : State) : State :=
  (s.moveTo requester bay .powered none).portOn bay

/-- Enter POWERING (R11). -/
def enterPowering (requester : Option Master) (bay : Bay) (s : State) : State :=
  let s1 := s.moveTo requester bay .powering none
  if (s1.setups.get bay).powerSettle = 0 then enterPowered requester bay s1
  else s1.startTimer bay .powerSettle (s1.setups.get bay).powerSettle

/-! ### CLOSING (R16) -/

/-- The wait of UNCLAMP. -/
def runUnclamp (requester : Option Master) (bay : Bay) (s : State) : State :=
  if (s.inputs.get bay).clampClosed then
    awaitFeedback requester bay .clampRelease (s.setups.get bay).clampTimeout s
  else s.enterOpen requester bay

/-- Enter UNCLAMP from RETRACT. -/
def enterUnclamp (requester : Option Master) (bay : Bay) (s : State) : State :=
  runUnclamp requester bay (s.moveTo requester bay .closing (some .unclamp))

/-- The wait of RETRACT. -/
def runRetract (requester : Option Master) (bay : Bay) (s : State) : State :=
  if (s.inputs.get bay).contactMade then
    awaitFeedback requester bay .contactRelease (s.setups.get bay).contactTimeout s
  else enterUnclamp requester bay s

/-- Enter RETRACT from POWER-DOWN. -/
def enterRetract (requester : Option Master) (bay : Bay) (s : State) : State :=
  runRetract requester bay (s.moveTo requester bay .closing (some .retract))

/-- The settle period of POWER-DOWN. -/
def runPowerDown (requester : Option Master) (bay : Bay) (s : State) : State :=
  if (s.setups.get bay).powerOffSettle = 0 then enterRetract requester bay s
  else s.startTimer bay .powerOffSettle (s.setups.get bay).powerOffSettle

/-- Enter CLOSING at a phase: the phase's outputs, the bay event in the other blocks, then the phase's wait. -/
def enterClosing (requester : Option Master) (bay : Bay) (phase : Phase) (s : State) : State :=
  let s1 := (s.moveTo requester bay .closing (some phase)).tearDown bay (s.bayState bay).live false
  match phase with
  | .powerDown => runPowerDown requester bay s1
  | .retract => runRetract requester bay s1
  | .unclamp => runUnclamp requester bay s1

/-- The phase CLOSING is entered at by a withdrawal (R14, R15); absent where ABORT is refused. -/
def BayState.closingPhase : BayState → Option Phase
  | .clamping => some .unclamp
  | .clamped => some .unclamp
  | .contacting => some .retract
  | .contacted => some .retract
  | .powering => some .powerDown
  | .powered => some .powerDown
  | .testing => some .powerDown
  | .vacant => none
  | .loaded => none
  | .closing => none
  | .safe => none

/-- ABORT in a state that takes it (R15): a unit under test ends ABORTED, and the bay enters CLOSING. -/
def abortBay (requester : Option Master) (bay : Bay) (phase : Phase) (s : State) : State :=
  if s.bayState bay = .testing then
    enterClosing requester bay phase ((s.endUnit bay .aborted none).setLamp bay .aborted)
  else enterClosing requester bay phase s

end Sys2Proof.Machine
end

