-- ==== Sys2Proof/Machine/Bays.lean ====
section
/-! DEFINITION. The bay requests, the fixture events and the ABORT key (chapter 1, R187). -/

namespace Sys2Proof.Machine

/-! ### Answers (R7) -/

/-- A bay request refused STATE carries the present state and phase (R7, R195). -/
def refuseState (bay : Bay) (s : State) : State × Answer :=
  (s, ⟨.state, .refusedState (s.bayState bay) (s.bays.get bay).ctx.phase⟩)

/-- The state is one in which the bay waits on the fixture or a timer (R7). -/
def BayState.waits : BayState → Bool
  | .clamping | .contacting | .powering | .closing => true
  | _ => false

/-- ACCEPTED where the bay is left waiting, OK otherwise (R7). -/
def bayStatus (bay : Bay) (s : State) : Status := if (s.bayState bay).waits then .accepted else .ok

/-- The answer of a taken bay request (R7). -/
def bayAnswer (bay : Bay) (s : State) : State × Answer :=
  let c := (s.bays.get bay).ctx
  (s, ⟨bayStatus bay s, .bay c.state c.phase c.unitSeq⟩)

/-- A request that `ok` admits in the present state and `f` carries out. -/
def bayRule (ok : State → Bool) (f : State → State) (bay : Bay) (s : State) : State × Answer :=
  if ok s then bayAnswer bay (f s) else refuseState bay s

/-- INTERLOCK_OK is high and EMERGENCY is inactive (R9, R23). -/
def State.interlocked (s : State) (bay : Bay) : Bool := (s.inputs.get bay).interlockOk && !s.emergency

/-! ### Bringing a unit up (R9 to R12) -/

/-- CLAMP after admission (R9). -/
def clampRule (m : Master) (bay : Bay) (s : State) : State × Answer :=
  bayRule (fun s => s.bayState bay = .loaded && s.interlocked bay) (enterClamping (some m) bay) bay s

/-- CLAMP (R9). -/
def execClamp (r : Req) (s : State) : Host.Outcome State Fault Refusal :=
  serve r (Gate.fixed .anyPort true 0 r) (clampRule r.port r.bay) s

/-- CONTACT after admission (R10). -/
def contactRule (m : Master) (bay : Bay) (s : State) : State × Answer :=
  bayRule (fun s => s.bayState bay = .clamped) (enterContacting (some m) bay) bay s

/-- CONTACT (R10). -/
def execContact (r : Req) (s : State) : Host.Outcome State Fault Refusal :=
  serve r (Gate.fixed .anyPort true 0 r) (contactRule r.port r.bay) s

/-- POWER after admission (R11). -/
def powerRule (m : Master) (bay : Bay) (s : State) : State × Answer :=
  bayRule (fun s => s.bayState bay = .contacted) (enterPowering (some m) bay) bay s

/-- POWER (R11). -/
def execPower (r : Req) (s : State) : Host.Outcome State Fault Refusal :=
  serve r (Gate.fixed .anyPort true 0 r) (powerRule r.port r.bay) s

/-- A serial of 1 to 20 characters 0x20 to 0x7E (R12). -/
def serialOk (l : List Byte) : Bool :=
  1 ≤ l.length && l.length ≤ 20 && l.all fun c => 0x20 ≤ c.toNat && c.toNat ≤ 0x7E

/-- The default policy of a Bay Setup record (R12, R32). -/
def Setup.policy (p : Setup) : Policy := ⟨p.marginalFails, p.unknownFails, p.operatorAbort⟩

/-- The policy of a START: each override given replaces the default (R12). -/
def formPolicy (o : StartOps) (p : Setup) : Policy where
  marginalFails := o.marginalFails.getD p.marginalFails
  unknownFails  := o.unknownFails.getD p.unknownFails
  operatorAbort := o.operatorAbort.getD p.operatorAbort

/-- The unit record a START begins (R12). -/
def BayCtx.begin (o : StartOps) (p : Setup) (now : Time) (c : BayCtx) : BayCtx :=
  { c with
    unitSeq := c.unitSeq + 1, serial := some o.serial, planTag := some o.planTag, startTime := some now
    policy := formPolicy o p, counts := {}, unknownSeen := false, uncal := false, unitVerdict := none
    unitOwed := true }

/-- A START that is taken (R12), with the entry to TESTING in the other blocks (R63, R91, R148). -/
def startUnit (m : Master) (bay : Bay) (o : StartOps) (s : State) : State :=
  let x := s.bays.get bay
  let s1 := s.setBay bay { x with ctx := x.ctx.begin o (s.setups.get bay) s.rackTime, lamp := .busy }
  let v := s1.vlg.reserve (.unit bay)
  let s2 := s1.setVlg { v with stepsWritten := v.stepsWritten.set bay 0 }
  ((s2.moveTo (some m) bay .testing none).resetPinned bay).scheduleRun bay

/-- START after admission: state, operands, capacity (R7, R12). -/
def startRule (m : Master) (bay : Bay) (o : StartOps) (s : State) : State × Answer :=
  if s.bayState bay ≠ .powered then refuseState bay s
  else if !serialOk o.serial then (s, bare .range)
  else if !s.vlg.room then (s, bare .full)
  else bayAnswer bay (startUnit m bay o s)

/-- START (R12); the operand length agrees with the length byte of the serial (R194). -/
def execStart (r : Req) (o : StartOps) (s : State) : Host.Outcome State Fault Refusal :=
  serve r ⟨.anyPort, r.len.toNat = 4 + o.serialLen.toNat && o.serial.length = o.serialLen.toNat, true, false⟩
    (startRule r.port r.bay o) s

/-! ### Ending a unit and taking the bay down (R13 to R15) -/

/-- FINISH after admission (R13). -/
def finishRule (m : Master) (bay : Bay) (s : State) : State × Answer :=
  if s.bayState bay ≠ .testing then refuseState bay s
  else if s.measuring (sequencer bay) then (s, bare .busy)
  else
    let v := unitVerdictOf (s.bays.get bay).ctx
    let t := enterClosing (some m) bay .powerDown ((s.endUnit bay v none).setLamp bay v.lamp)
    let c := (t.bays.get bay).ctx
    (t, ⟨bayStatus bay t, .finished c.state c.phase c.unitSeq v c.counts⟩)

/-- FINISH (R13). -/
def execFinish (r : Req) (s : State) : Host.Outcome State Fault Refusal :=
  serve r (Gate.fixed .anyPort true 0 r) (finishRule r.port r.bay) s

/-- The phase UNLOAD enters CLOSING at; absent where it is refused (R14). -/
def BayState.unloadPhase : BayState → Option Phase
  | .clamped => some .unclamp
  | .contacted => some .retract
  | .powered => some .powerDown
  | _ => none

/-- UNLOAD after admission (R14). -/
def unloadRule (m : Master) (bay : Bay) (s : State) : State × Answer :=
  match (s.bayState bay).unloadPhase with
  | none => refuseState bay s
  | some phase => bayAnswer bay (enterClosing (some m) bay phase s)

/-- UNLOAD (R14). -/
def execUnload (r : Req) (s : State) : Host.Outcome State Fault Refusal :=
  serve r (Gate.fixed .anyPort true 0 r) (unloadRule r.port r.bay) s

/-- ABORT after admission (R15); the answer carries the unit verdict when the bay was TESTING. -/
def abortRule (m : Master) (bay : Bay) (s : State) : State × Answer :=
  match (s.bayState bay).closingPhase with
  | none => refuseState bay s
  | some phase =>
    let t := abortBay (some m) bay phase s
    if s.bayState bay = .testing then
      let c := (t.bays.get bay).ctx
      (t, ⟨bayStatus bay t, .abortedUnit c.state c.phase c.unitSeq .aborted⟩)
    else bayAnswer bay t

/-- ABORT (R15). -/
def execAbort (r : Req) (s : State) : Host.Outcome State Fault Refusal :=
  serve r (Gate.fixed .anyPort true 0 r) (abortRule r.port r.bay) s

/-! ### Leaving SAFE and bay reset (R23, R24) -/

/-- The lamp after SAFE (R28). -/
def releasedLamp (v : Option UnitVerdict) : Lamp := (v.map UnitVerdict.lamp).getD .off

/-- A RELEASE that is taken (R23, R175). -/
def releaseBay (m : Master) (bay : Bay) (s : State) : State :=
  let x := s.bays.get bay
  let s1 := s.setBay bay { x with ctx := { x.ctx with safeCause := none }, lamp := releasedLamp x.ctx.unitVerdict }
  let s2 := s1.setWindow bay (s1.windows.get bay).restore
  if x.out.clamp then enterClamping (some m) bay s2 else s2.enterOpen (some m) bay

/-- RELEASE after admission (R23). -/
def releaseRule (m : Master) (bay : Bay) (s : State) : State × Answer :=
  bayRule (fun s => s.bayState bay = .safe && s.interlocked bay) (releaseBay m bay) bay s

/-- RELEASE (R23). -/
def execRelease (r : Req) (s : State) : Host.Outcome State Fault Refusal :=
  serve r (Gate.fixed .anyPort true 0 r) (releaseRule r.port r.bay) s

/-- BAY RESET (R24): the unit ends, the bay opens, every block flushes what it holds for the bay. -/
def resetBay (m : Master) (bay : Bay) (s : State) : State :=
  let st := s.bayState bay
  let s1 := if st = .testing then s.endUnit bay .aborted (some .bayReset) else s
  let x := s1.bays.get bay
  let s2 := s1.setBay bay { x with ctx := { x.ctx with safeCause := none }, lamp := .off }
  let s3 := (s2.enterOpen (some m) bay).tearDown bay st.live true
  let s4 := s3.endClaims bay
  s4.setWindow bay ((s4.windows.get bay).bayReset (st = .safe))

/-- BAY RESET after admission (R24): taken in every state, answered OK. -/
def bayResetRule (m : Master) (bay : Bay) (s : State) : State × Answer := bayAnswer bay (resetBay m bay s)

/-- BAY_RESET (R24). -/
def execBayReset (r : Req) (s : State) : Host.Outcome State Fault Refusal :=
  serve r (Gate.fixed .anyPort true 0 r) (bayResetRule r.port r.bay) s

/-! ### The Bay Setup record and BAY READ (R30, R31) -/

/-- The record BAY SETUP WRITE stores (R30): every scalar clamped. -/
def storedSetup (o : SetupOps) : Setup where
  clampTimeout   := clampNat 100 5000 o.clampTimeout.toNat
  contactTimeout := clampNat 100 5000 o.contactTimeout.toNat
  powerSettle    := clampNat 0 2000 o.powerSettle.toNat
  powerOffSettle := clampNat 0 2000 o.powerOffSettle.toNat
  reservedPins   := o.reservedPins
  bitRate        := o.bitRate.toNat
  loadLimit      := clampNat 10 100 o.loadLimit.toNat
  bucketDepth    := clampNat 200 20000 o.bucketDepth.toNat
  w2             := clampNat 1 15 o.w2.toNat
  w1             := clampNat 1 15 o.w1.toNat
  w0             := clampNat 1 15 o.w0.toNat
  retryLimit     := clampNat 0 7 o.retryLimit.toNat
  ageLimit       := clampNat 100 60000 o.ageLimit.toNat
  holdLimit      := clampNat 10 5000 o.holdLimit.toNat
  alertPage      := clampNat 0 799 o.alertPage.toNat
  mirrorTx       := flagOf o.mirrorTx
  mirrorRx       := flagOf o.mirrorRx
  marginalFails  := flagOf o.marginalFails
  unknownFails   := flagOf o.unknownFails
  operatorAbort  := flagOf o.operatorAbort

/-- The bit rates of R30. -/
def bitRateOk (n : Nat) : Bool := n = 125 || n = 250 || n = 500 || n = 1000

/-- The fixture is open: VACANT or LOADED. -/
def BayState.isOpen : BayState → Bool
  | .vacant | .loaded => true
  | _ => false

/-- BAY SETUP WRITE after admission (R30). -/
def baySetupWriteRule (bay : Bay) (o : SetupOps) (s : State) : State × Answer :=
  if !(s.bayState bay).isOpen then refuseState bay s
  else if !bitRateOk o.bitRate.toNat then (s, bare .range)
  else ({ s with setups := s.setups.set bay (storedSetup o) }, okWith (.setup (storedSetup o)))

/-- BAY_SETUP_WRITE (R30). -/
def execBaySetupWrite (r : Req) (o : SetupOps) (s : State) : Host.Outcome State Fault Refusal :=
  serve r (Gate.fixed .station true 34 r) (baySetupWriteRule r.bay o) s

/-- BAY SETUP READ after admission (R31). -/
def baySetupReadRule (bay : Bay) (s : State) : State × Answer := (s, okWith (.setup (s.setups.get bay)))

/-- BAY_SETUP_READ (R31). -/
def execBaySetupRead (r : Req) (s : State) : Host.Outcome State Fault Refusal :=
  serve r (Gate.fixed .anyPort true 0 r) (baySetupReadRule r.bay) s

/-- BAY READ after admission (R31). The level of EMERGENCY is carried as whether it is active; `Body.bytes` gives its byte
(notes/assumptions/18.md). -/
def bayReadRule (bay : Bay) (s : State) : State × Answer :=
  let x := s.bays.get bay
  (s, okWith (.bayRead x.ctx (s.inputs.get bay) s.emergency x.out x.lamp))

/-- BAY_READ (R31). -/
def execBayRead (r : Req) (s : State) : Host.Outcome State Fault Refusal :=
  serve r (Gate.fixed .anyPort true 0 r) (bayReadRule r.bay) s

/-! ### Fixture inputs (R17 to R22) -/

/-- An input edge: the level changes, and the running part acts on it; a part in reset or without supply only sees the
level (notes/assumptions/7.md). -/
def inputEdge (level act : State → State) (s : State) : Host.Outcome State Fault Refusal :=
  .next (if s.running then act (level s) else level s)

/-- Set a fixture input level of a bay. -/
def State.setInput (bay : Bay) (f : Inputs → Inputs) (s : State) : State :=
  { s with inputs := s.inputs.set bay (f (s.inputs.get bay)) }

/-- The place of a state in the order of R4. -/
def BayState.rank : BayState → Nat
  | .vacant => 0
  | .loaded => 1
  | .clamping => 2
  | .clamped => 3
  | .contacting => 4
  | .contacted => 5
  | .powering => 6
  | .powered => 7
  | .testing => 8
  | .closing => 9
  | .safe => 10

/-- A state range written with a dash (R3). -/
def BayState.within (lo hi st : BayState) : Bool := lo.rank ≤ st.rank && st.rank ≤ hi.rank

/-- The bay is in CLOSING at one of the phases. -/
def State.closingAt (s : State) (bay : Bay) (p : Phase → Bool) : Bool :=
  s.bayState bay = .closing && (match (s.bays.get bay).ctx.phase with | some x => p x | none => false)

/-- UNIT_PRESENT rising (R17). -/
def unitPresentRises (bay : Bay) (s : State) : State :=
  if s.bayState bay = .vacant then s.moveTo none bay .loaded none else s

/-- UNIT_PRESENT falling (R17). -/
def unitPresentFalls (bay : Bay) (s : State) : State :=
  if s.bayState bay = .loaded then (s.moveTo none bay .vacant none).vacate bay
  else if BayState.within .clamping .closing (s.bayState bay) then enterSafe none bay .unitLost s
  else s

/-- CLAMP_CLOSED rising (R18). -/
def clampClosedRises (bay : Bay) (s : State) : State :=
  if s.bayState bay = .clamping then s.moveTo none bay .clamped none else s

/-- CLAMP_CLOSED falling (R18). -/
def clampClosedFalls (bay : Bay) (s : State) : State :=
  if BayState.within .clamped .testing (s.bayState bay) || s.closingAt bay (fun p => p ≠ .unclamp) then
    enterSafe none bay .clampLost s
  else if s.closingAt bay (fun p => p = .unclamp) then s.enterOpen none bay
  else s

/-- CONTACT_MADE rising (R19). -/
def contactMadeRises (bay : Bay) (s : State) : State :=
  if s.bayState bay = .contacting then s.moveTo none bay .contacted none else s

/-- CONTACT_MADE falling (R19). -/
def contactMadeFalls (bay : Bay) (s : State) : State :=
  if BayState.within .contacted .testing (s.bayState bay) || s.closingAt bay (fun p => p = .powerDown) then
    enterSafe none bay .contactLost s
  else if s.closingAt bay (fun p => p = .retract) then enterUnclamp none bay s
  else s

/-- INTERLOCK_OK falling (R20). -/
def interlockFalls (bay : Bay) (s : State) : State :=
  if BayState.within .clamping .closing (s.bayState bay) then enterSafe none bay .interlock s else s

/-- EMERGENCY becoming active in one Bay Controller (R20). -/
def emergencyReaches (bay : Bay) (s : State) : State :=
  if BayState.within .clamping .closing (s.bayState bay) then enterSafe none bay .emergency s else s

/-- UNIT_PRESENT_RISING (R17). -/
def execUnitPresentRising (bay : Bay) (s : State) : Host.Outcome State Fault Refusal :=
  inputEdge (State.setInput bay fun x => { x with unitPresent := true }) (unitPresentRises bay) s

/-- UNIT_PRESENT_FALLING (R17). -/
def execUnitPresentFalling (bay : Bay) (s : State) : Host.Outcome State Fault Refusal :=
  inputEdge (State.setInput bay fun x => { x with unitPresent := false }) (unitPresentFalls bay) s

/-- CLAMP_CLOSED_RISING (R18). -/
def execClampClosedRising (bay : Bay) (s : State) : Host.Outcome State Fault Refusal :=
  inputEdge (State.setInput bay fun x => { x with clampClosed := true }) (clampClosedRises bay) s

/-- CLAMP_CLOSED_FALLING (R18). -/
def execClampClosedFalling (bay : Bay) (s : State) : Host.Outcome State Fault Refusal :=
  inputEdge (State.setInput bay fun x => { x with clampClosed := false }) (clampClosedFalls bay) s

/-- CONTACT_MADE_RISING (R19). -/
def execContactMadeRising (bay : Bay) (s : State) : Host.Outcome State Fault Refusal :=
  inputEdge (State.setInput bay fun x => { x with contactMade := true }) (contactMadeRises bay) s

/-- CONTACT_MADE_FALLING (R19). -/
def execContactMadeFalling (bay : Bay) (s : State) : Host.Outcome State Fault Refusal :=
  inputEdge (State.setInput bay fun x => { x with contactMade := false }) (contactMadeFalls bay) s

/-- INTERLOCK_OK_FALLING (R20). -/
def execInterlockOkFalling (bay : Bay) (s : State) : Host.Outcome State Fault Refusal :=
  inputEdge (State.setInput bay fun x => { x with interlockOk := false }) (interlockFalls bay) s

/-- INTERLOCK_OK_RISING (R20): the level alone. -/
def execInterlockOkRising (bay : Bay) (s : State) : Host.Outcome State Fault Refusal :=
  inputEdge (State.setInput bay fun x => { x with interlockOk := true }) id s

/-- EMERGENCY_ACTIVE (R20): each Bay Controller takes it as its own event, in the order the operand gives. -/
def execEmergencyActive (first : Bay) (s : State) : Host.Outcome State Fault Refusal :=
  inputEdge (fun s => { s with emergency := true })
    (fun s => emergencyReaches (otherBay first) (emergencyReaches first s)) s

/-- EMERGENCY_INACTIVE (R20): the level alone. -/
def execEmergencyInactive (s : State) : Host.Outcome State Fault Refusal :=
  inputEdge (fun s => { s with emergency := false }) id s

/-! ### The fixture timer (R5) -/

/-- What the expiry of a purpose does (R5). -/
def expiryOf (bay : Bay) : TimerPurpose → State → State
  | .clampFeedback => enterSafe none bay .fixtureTimeout
  | .contactFeedback => enterSafe none bay .fixtureTimeout
  | .contactRelease => enterSafe none bay .fixtureTimeout
  | .clampRelease => enterSafe none bay .fixtureTimeout
  | .powerSettle => enterPowered none bay
  | .powerOffSettle => enterRetract none bay

/-- The fixture timer's expiry; a timer that is idle or has time left does not expire. -/
def expireFixture (bay : Bay) (s : State) : State :=
  match (s.bays.get bay).timer with
  | some t => if reached s.rackTime t.expiry then expiryOf bay t.purpose s else s
  | none => s

/-- FIXTURE_TIMER_EXPIRY (R5). -/
def execFixtureTimerExpiry (bay : Bay) (s : State) : Host.Outcome State Fault Refusal := event (expireFixture bay) s

/-! ### The ABORT key (R187) -/

/-- The key is handed to the Bay Controller: with *operator_abort* in TESTING, always in CLAMPING to POWERED. -/
def State.takesAbortKey (s : State) (bay : Bay) : Bool :=
  if s.bayState bay = .testing then (s.bays.get bay).ctx.policy.operatorAbort
  else BayState.within .clamping .powered (s.bayState bay)

/-- A press of the ABORT key: ABORT without a requester, or a stray key. -/
def pressAbort (bay : Bay) (s : State) : State :=
  if s.takesAbortKey bay then
    match (s.bayState bay).closingPhase with
    | some phase => abortBay none bay phase s
    | none => s
  else s.count bay .strayKeys

/-- ABORT_KEY (R187). -/
def execAbortKey (bay : Bay) (s : State) : Host.Outcome State Fault Refusal := event (pressAbort bay) s

end Sys2Proof.Machine
end

