-- ==== Sys2Proof/Machine/Measure.lean ====
section
/-! DEFINITION. The commands of the Measurement Unit but for its tables (chapter 5). -/

namespace Sys2Proof.Machine

/-! ### Claims (R103, R107) -/

/-- A bay requester's bay is neither POWERED nor TESTING (R103); the station has no bay. -/
def State.claimBarred (s : State) (m : Master) : Bool :=
  match masterBay m with
  | some bay => !(s.bayState bay).live
  | none => false

/-- The priority of a first claim (R103). -/
def firstPriority (m : Master) : Priority :=
  match m with
  | .ssv => .urgent
  | .bsqA => .normal
  | .bsqB => .normal

/-- A first claim joins the claim queue at its tail (R101, R103). -/
def State.joinQueue (m : Master) (s : State) : State :=
  s.setMeu { s.meu with
    claims := s.meu.claims.set m (.waiting (firstPriority m) s.rackTime), waiters := s.meu.waiters ++ [m] }

/-- A claim that leaves its requester WAITING is offered to the arbiter, or tested against the present holder (R103). -/
def State.offerClaim (m : Master) (s : State) : State :=
  if s.meu.busy then s.testRevoke (some m) else s.arbitrate (some m)

/-- The claim state that an answer carries (R103, R107). -/
def Claim.state : Claim → ClaimState
  | .none => .none
  | .waiting p _ => .waiting p
  | .holding _ _ _ _ => .holding
  | .revoking _ _ _ _ => .revoking

/-- A taken claim's or release's answer: the claim state as it stands (R103, R107). -/
def claimAnswer (st : Status) (m : Master) (s : State) : State × Answer := (s, ⟨st, .claim (s.claim m).state⟩)

/-- MEU CLAIM after admission (R103). -/
def meuClaimRule (m : Master) (s : State) : State × Answer :=
  if s.claimBarred m then (s, bare .state)
  else match s.claim m with
    | .none => claimAnswer .ok m ((s.joinQueue m).offerClaim m)
    | .waiting _ t => claimAnswer .ok m ((s.setClaim m (.waiting .urgent t)).offerClaim m)
    | .holding _ _ _ _ => (s, bare .state)
    | .revoking _ _ _ _ => (s, bare .state)

/-- MEU_CLAIM (R103). -/
def execMeuClaim (r : Req) (s : State) : Host.Outcome State Fault Refusal :=
  serve r (Gate.fixed .anyPort false 0 r) (meuClaimRule r.port) s

/-- MEU RELEASE after admission (R107). -/
def meuReleaseRule (m : Master) (s : State) : State × Answer :=
  match s.claim m with
  | .none => (s, bare .state)
  | .waiting _ _ =>
    claimAnswer .ok m
      (s.setMeu { s.meu with claims := s.meu.claims.set m .none, waiters := s.meu.waiters.erase m })
  | .holding p t limit _ =>
    let x := { s.meu with holdTimer := none }
    if s.measuring m then
      claimAnswer .accepted m (s.setMeu { x with claims := s.meu.claims.set m (.holding p t limit true) })
    else claimAnswer .ok m ((s.setMeu { x with claims := s.meu.claims.set m .none }).arbitrate none)
  | .revoking p t limit _ => claimAnswer .ok m (s.setClaim m (.revoking p t limit true))

/-- MEU_RELEASE (R107). -/
def execMeuRelease (r : Req) (s : State) : Host.Outcome State Fault Refusal :=
  serve r (Gate.fixed .anyPort false 0 r) (meuReleaseRule r.port) s

/-- The hold timer expires (R102, R105): the revoke conditions are tested against the holder. -/
def expireHold (s : State) : State :=
  match s.meu.holdTimer with
  | some e => if reached s.rackTime e then (s.setMeu { s.meu with holdTimer := none }).testRevoke none else s
  | none => s

/-- HOLD_TIMER_EXPIRY (R105). -/
def execHoldTimerExpiry (s : State) : Host.Outcome State Fault Refusal := event expireHold s

/-! ### MEASURE (R109, R110) -/

/-- The limit index of a MEASURE: 0xFFFF means no limit (R197). -/
def limitOperand (x : Half) : Option Nat := if x = 0xFFFF then none else some x.toNat

/-- A Limit Table record. -/
def State.limit (s : State) (i : Nat) : LimitRec := Table.read {} s.limits i

/-- The checks of R109 on a limit measurement, from the requester on; the first that fails gives the status. -/
def limitChecks (m : Master) (bay : Bay) (range : Range) (i : Nat) (s : State) : Option Status :=
  if m = .ssv then some .range
  else if s.bayState bay ≠ .testing then some .state
  else if 255 < i ∨ (s.limit i).valid = false ∨ (s.limit i).range ≠ range then some .range
  else if !s.vlg.room then some .full
  else if !s.vlg.admits bay then some .full
  else none

/-- The checks of R109 in their order; the first that fails gives the status, else the range to measure. -/
def measureChecks (m : Master) (bay : Bay) (o : MeasureOps) (s : State) : Status ⊕ Range :=
  if !(s.claim m).granted then .inl .denied
  else if (match s.claim m with | .revoking _ _ _ _ => true | _ => false) then .inl .preempted
  else if s.measuring m then .inl .busy
  else if m = .ssv ∧ s.bayState bay = .safe then .inl .state
  else match rangeOf o.range with
    | none => .inl .range
    | some range =>
      if !range.channelOk o.channel.toNat then .inl .range
      else match limitOperand o.limit with
        | none => .inr range
        | some i => match limitChecks m bay range i s with
          | some st => .inl st
          | none => .inr range

/-- The first phase of a measurement (R110, R111). -/
def firstPhase (range : Range) (settle : Nat) (now : Time) : MeasPhase :=
  if range.onSense then .connect else settlePhase settle now

/-- The measurement a MEASURE makes (R110); *samples* and *settle* are clamped (R109). On IL and IH, where R109 ignores
the channel and gives no stored value, the operand byte is kept as given (DESIGN CHOICE, notes/assumptions/42.md). -/
def newMeasurement (m : Master) (bay : Bay) (range : Range) (o : MeasureOps) (now : Time) : Measurement :=
  let settle := clampNat 0 255 o.settle.toNat
  { requester := m, bay := bay, range := range, channel := o.channel.toNat
    samples := clampNat 1 64 o.samples.toNat, settle := settle, limit := limitOperand o.limit
    phase := firstPhase range settle now, codes := [] }

/-- CONNECT begins (R112): with no sense connection the channel's relay is commanded at once, otherwise the
measurement waits for the disconnection. -/
def senseFor (x : Measurement) (now : Time) (sense : Option Sense) : Option Sense :=
  if x.range.onSense ∧ sense = none then some (connecting x.bay x.channel now) else sense

/-- A MEASURE that passes its checks (R110). -/
def acceptMeasure (x : Measurement) (s : State) : State :=
  let s1 := if x.limit.isSome then s.setVlg (s.vlg.reserve (.measure x.bay)) else s
  s1.setMeu { s1.meu with
    slots := s1.meu.slots.set x.requester none
    inFlight := some x
    sense := senseFor x s.rackTime s1.meu.sense }

/-- MEASURE after admission (R109, R110). -/
def measureRule (m : Master) (bay : Bay) (o : MeasureOps) (s : State) : State × Answer :=
  match measureChecks m bay o s with
  | .inl st => (s, bare st)
  | .inr range =>
    let x := newMeasurement m bay range o s.rackTime
    (acceptMeasure x s, ⟨.accepted, .measure x.range x.channel x.samples x.settle⟩)

/-- MEASURE (R109, R110). -/
def execMeasure (r : Req) (o : MeasureOps) (s : State) : Host.Outcome State Fault Refusal :=
  serve r (Gate.fixed .anyPort true 7 r) (measureRule r.port r.bay o) s

/-! ### Reading (R117, R121) -/

/-- RESULT READ after admission (R117). -/
def resultReadRule (m : Master) (s : State) : State × Answer :=
  if s.measuring m then (s, bare .pending)
  else match s.meu.slots.get m with
    | none => (s, bare .empty)
    | some x => (s.setMeu { s.meu with slots := s.meu.slots.set m none }, okWith (.result x))

/-- RESULT_READ (R117). -/
def execResultRead (r : Req) (s : State) : Host.Outcome State Fault Refusal :=
  serve r (Gate.fixed .anyPort false 0 r) (resultReadRule r.port) s

/-- The report of the measurement in flight (R121). -/
def Measurement.report (x : Measurement) : MeasReport where
  requester := x.requester
  bay       := x.bay
  range     := x.range
  channel   := x.channel
  samples   := x.samples
  settle    := x.settle
  limit     := x.limit
  phase     := x.phase.name
  taken     := x.codes.length

/-- The report of a claim record (R121). -/
def Claim.report : Claim → ClaimReport
  | .none => .none
  | .waiting p t => .waiting p t
  | .holding p t limit pending => .holding p t pending limit
  | .revoking p t _ pending => .revoking p t pending

/-- A sense connection state without its end time. -/
def SenseState.name : SenseState → SenseName
  | .connecting _ => .connecting
  | .connected => .connected
  | .disconnecting _ => .disconnecting

/-- The report of the sense connection record (R121). -/
def Sense.report (x : Sense) : SenseReport := { target := x.target, state := x.state.name }

/-- MEU READ after admission (R121). -/
def meuReadRule (s : State) : State × Answer :=
  let c := s.meu.claims
  (s, okWith (.meu ⟨c.bsqA.report, c.bsqB.report, c.ssv.report⟩ (s.meu.inFlight.map Measurement.report)
    (s.meu.sense.map Sense.report)))

/-- MEU_READ (R121). -/
def execMeuRead (r : Req) (s : State) : Host.Outcome State Fault Refusal :=
  serve r (Gate.fixed .anyPort false 0 r) meuReadRule s

/-! ### Phase ends (R111 to R114) -/

/-- The measurement in flight waits in CONNECT. -/
def Measurement.inConnect (x : Measurement) : Bool := x.phase = .connect

/-- The phase after CONNECT begins (R111, R112). -/
def afterConnect (now : Time) (x : Measurement) : Measurement :=
  if x.inConnect then { x with phase := settlePhase x.settle now } else x

/-- A sense relay has closed (R112). -/
def completeConnect (s : State) : State :=
  match s.meu.sense with
  | some x => match x.state with
    | .connecting e =>
      if reached s.rackTime e then
        s.setMeu { s.meu with
          sense := some { x with state := .connected }
          inFlight := s.meu.inFlight.map (afterConnect s.rackTime) }
      else s
    | .connected => s
    | .disconnecting _ => s
  | none => s

/-- SENSE_CONNECT_COMPLETE (R112). -/
def execSenseConnectComplete (s : State) : Host.Outcome State Fault Refusal := event completeConnect s

/-- The sense record after a disconnection: a measurement waiting in CONNECT commands its relay (R112). -/
def senseAfter (now : Time) (inFlight : Option Measurement) : Option Sense :=
  match inFlight with
  | some x => if x.inConnect then some (connecting x.bay x.channel now) else none
  | none => none

/-- A sense relay has opened (R112). -/
def completeDisconnect (s : State) : State :=
  match s.meu.sense with
  | some x => match x.state with
    | .disconnecting e =>
      if reached s.rackTime e then s.setMeu { s.meu with sense := senseAfter s.rackTime s.meu.inFlight } else s
    | .connecting _ => s
    | .connected => s
  | none => s

/-- SENSE_DISCONNECT_COMPLETE (R112). -/
def execSenseDisconnectComplete (s : State) : Host.Outcome State Fault Refusal := event completeDisconnect s

/-- SETTLE ends *settle* ms after it began (R111). -/
def endSettle (s : State) : State :=
  match s.meu.inFlight with
  | some x => match x.phase with
    | .settle e =>
      if reached s.rackTime e then s.setMeu { s.meu with inFlight := some { x with phase := .sampling } } else s
    | .connect => s
    | .sampling => s
  | none => s

/-- SETTLE_END (R111). -/
def execSettleEnd (s : State) : Host.Outcome State Fault Refusal := event endSettle s

/-- A raw code is taken in SAMPLING (R113); the last one is the completion event (R114). -/
def takeSample (code : Half) (s : State) : State :=
  match s.meu.inFlight with
  | some x =>
    if x.phase = .sampling then
      let y := { x with codes := x.codes ++ [code] }
      if x.samples ≤ y.codes.length then completeMeasurement y s
      else s.setMeu { s.meu with inFlight := some y }
    else s
  | none => s

/-- SAMPLE_TAKEN (R113, R114). -/
def execSampleTaken (code : Half) (s : State) : Host.Outcome State Fault Refusal := event (takeSample code) s

end Sys2Proof.Machine
end

