-- ==== Sys2Proof/Machine/Calibration.lean ====
section
/-! DEFINITION. The commands of the Calibration Set and the Limit Table (chapter 6). -/

namespace Sys2Proof.Machine

/-- A calibration record. -/
def State.calRec (s : State) (bay : Bay) (range : Range) : CalRec :=
  Table.read {} s.cal.recs (calPosition bay range)

/-- The record CAL WRITE stores (R131): both fields clamped. -/
def storedCal (gain offset : Full) : CalRec where
  gain   := (clampInt 0 65535 (signed gain)).toNat
  offset := clampInt (-32768) 32767 (signed offset)

/-- CAL WRITE after admission (R131). -/
def calWriteRule (bay : Bay) (range : Byte) (gain offset : Full) (s : State) : State × Answer :=
  match rangeOf range with
  | none => (s, bare .range)
  | some k =>
    let x := storedCal gain offset
    ({ s with cal := { s.cal with recs := Table.write {} s.cal.recs (calPosition bay k) x } }, okWith (.cal bay k x))

/-- CAL_WRITE (R131). -/
def execCalWrite (r : Req) (range : Byte) (gain offset : Full) (s : State) : Host.Outcome State Fault Refusal :=
  serve r (Gate.fixed .station true 9 r) (calWriteRule r.bay range gain offset) s

/-- CAL READ after admission (R133). -/
def calReadRule (bay : Bay) (range : Byte) (s : State) : State × Answer :=
  match rangeOf range with
  | none => (s, bare .range)
  | some k => (s, okWith (.calRead bay k (s.calRec bay k) s.cal.uncal))

/-- CAL_READ (R133). -/
def execCalRead (r : Req) (range : Byte) (s : State) : Host.Outcome State Fault Refusal :=
  serve r (Gate.fixed .station true 1 r) (calReadRule r.bay range) s

/-- A LIMIT WRITE of a valid record (R135): *guard* is clamped from below. -/
def storedLimit (range : Range) (o : LimitOps) : LimitRec where
  valid := true
  range := range
  low   := signed o.low
  high  := signed o.high
  guard := (signed o.guard).toNat

/-- The write is allowed against the measurement in flight (R136). -/
def State.limitFree (s : State) (i : Nat) (x : LimitRec) : Bool :=
  match s.meu.inFlight with
  | some q => q.limit ≠ some i || (x.valid && x.range = q.range)
  | none => true

/-- Store a limit record unless R136 holds it back; the echo is followed by the effective guard (R135), 0 for a record
that is not valid. -/
def putLimit (i : Nat) (x : LimitRec) (s : State) : State × Answer :=
  if s.limitFree i x then
    ({ s with limits := Table.write {} s.limits i x }, okWith (.limit x (some x.effectiveGuard)))
  else (s, bare .busy)

/-- LIMIT WRITE after admission: the checks of R135 in their order. -/
def limitWriteRule (index : Byte) (o : LimitOps) (s : State) : State × Answer :=
  if flagOf o.valid then
    match rangeOf o.range with
    | none => (s, bare .range)
    | some k =>
      if signed o.high < signed o.low then (s, bare .range)
      else putLimit index.toNat (storedLimit k o) s
  else putLimit index.toNat {} s

/-- LIMIT_WRITE (R135). -/
def execLimitWrite (r : Req) (index : Byte) (o : LimitOps) (s : State) : Host.Outcome State Fault Refusal :=
  serve r (Gate.fixed .station false 15 r) (limitWriteRule index o) s

/-- LIMIT READ after admission (R137): the effective guard follows a valid record alone. -/
def limitReadRule (index : Byte) (s : State) : State × Answer :=
  let x := s.limit index.toNat
  (s, okWith (.limit x (if x.valid then some x.effectiveGuard else none)))

/-- LIMIT_READ (R137). -/
def execLimitRead (r : Req) (index : Byte) (s : State) : Host.Outcome State Fault Refusal :=
  serve r (Gate.fixed .station false 1 r) (limitReadRule index) s

end Sys2Proof.Machine
end

