-- ==== Sys2Proof/Machine/Display.lean ====
section
/-! DEFINITION. The commands of the Operator Display Controller (chapter 8). -/

namespace Sys2Proof.Machine

/-- SET CURSOR after admission (R164). -/
def setCursorRule (m : Master) (address : Half) (s : State) : State × Answer :=
  if address.toNat < addressSpace m then
    (s.setAccess m { s.access.get m with cursor := address.toNat }, bare .ok)
  else (s, bare .range)

/-- SET_CURSOR (R164). -/
def execSetCursor (r : Req) (address : Half) (s : State) : Host.Outcome State Fault Refusal :=
  serve r (Gate.fixed .anyPort false 2 r) (unlessClearing r.port (setCursorRule r.port address)) s

/-- DISPLAY WRITE after admission (R165). -/
def displayWriteRule (m : Master) (codes : List Byte) (s : State) : State × Answer :=
  let x := s.access.get m
  let c := advance m x.cursor codes.length
  ({ s with odc := writeRun m x.cursor codes s.odc }.setAccess m { x with cursor := c }, okWith (.cursor c))

/-- DISPLAY_WRITE (R165); the operand bytes are the codes, 1 to 64. -/
def execDisplayWrite (r : Req) (codes : List Byte) (s : State) : Host.Outcome State Fault Refusal :=
  serve r ⟨.anyPort, 1 ≤ r.len.toNat && r.len.toNat ≤ 64 && r.len.toNat = codes.length, false, false⟩
    (unlessClearing r.port (displayWriteRule r.port codes)) s

/-- DISPLAY READ after admission (R166): one cell behind the cursor through the latch. -/
def displayReadRule (m : Master) (count : Byte) (s : State) : State × Answer :=
  let n := count.toNat
  if n = 0 ∨ 64 < n then (s, bare .range)
  else
    let x := s.access.get m
    let c := advance m x.cursor n
    (s.setAccess m { x with latch := s.odc.code (cellOf m (x.cursor + n - 1)), cursor := c },
      okWith (.codes (x.latch :: readRun m s.odc x.cursor (n - 1)) c))

/-- DISPLAY_READ (R166). -/
def execDisplayRead (r : Req) (count : Byte) (s : State) : Host.Outcome State Fault Refusal :=
  serve r (Gate.fixed .anyPort false 1 r) (unlessClearing r.port (displayReadRule r.port count)) s

/-- ATTR SET and ATTR CLEAR after admission (R167). -/
def attrRule (m : Master) (v : Bool) (flag count : Byte) (s : State) : State × Answer :=
  let n := count.toNat
  match attrFlagOf flag with
  | none => (s, bare .range)
  | some f =>
    if n = 0 ∨ 64 < n then (s, bare .range)
    else
      let x := s.access.get m
      let c := advance m x.cursor n
      ({ s with odc := attrRun m f v x.cursor n s.odc }.setAccess m { x with cursor := c }, okWith (.cursor c))

/-- ATTR_SET (R167). -/
def execAttrSet (r : Req) (flag count : Byte) (s : State) : Host.Outcome State Fault Refusal :=
  serve r (Gate.fixed .anyPort false 2 r) (unlessClearing r.port (attrRule r.port true flag count)) s

/-- ATTR_CLEAR (R167). -/
def execAttrClear (r : Req) (flag count : Byte) (s : State) : Host.Outcome State Fault Refusal :=
  serve r (Gate.fixed .anyPort false 2 r) (unlessClearing r.port (attrRule r.port false flag count)) s

/-- The blocks of 64 cells that a clear of `n` cells takes (R168). -/
def clearBlocks (n : Nat) : Nat := (n + 63) / 64

/-- CLEAR AREA after admission (R168): the sender's bound is its addressing. -/
def clearAreaRule (m : Master) (count : Half) (s : State) : State × Answer :=
  let n := count.toNat
  if n = 0 ∨ addressSpace m < n then (s, bare .range)
  else
    let x := s.access.get m
    (s.setAccess m { x with clear := some { next := x.cursor, left := n, due := after s.rackTime 1 } },
      ⟨.accepted, .blocks (clearBlocks n)⟩)

/-- CLEAR_AREA (R168). -/
def execClearArea (r : Req) (count : Half) (s : State) : Host.Outcome State Fault Refusal :=
  serve r (Gate.fixed .anyPort false 2 r) (unlessClearing r.port (clearAreaRule r.port count)) s

/-- A block of a clear in progress that is due (R169); the last block moves the cursor and ends the clear. -/
def clearStep (m : Master) (s : State) : State :=
  let x := s.access.get m
  match x.clear with
  | none => s
  | some c =>
    if reached s.rackTime c.due then
      let n := min 64 c.left
      let next := advance m c.next n
      let s1 : State := { s with odc := clearRun m c.next n s.odc }
      if c.left ≤ 64 then s1.setAccess m { x with cursor := next, clear := none }
      else s1.setAccess m { x with clear := some { next := next, left := c.left - 64, due := after c.due 1 } }
    else s

/-- CLEAR_BLOCK (R169). -/
def execClearBlock (m : Master) (s : State) : Host.Outcome State Fault Refusal := event (clearStep m) s

/-- SET WINDOW after admission (R172). -/
def setWindowRule (bay : Bay) (start : Half) (s : State) : State × Answer :=
  if 800 ≤ start.toNat then (s, bare .range)
  else if s.bayState bay = .safe then (s, bare .state)
  else (s.setWindow bay { s.windows.get bay with start := start.toNat }, bare .ok)

/-- SET_WINDOW (R172). -/
def execSetWindow (r : Req) (start : Half) (s : State) : Host.Outcome State Fault Refusal :=
  serve r (Gate.fixed .anyPort true 2 r) (unlessClearing r.port (setWindowRule r.bay start)) s

/-- STATION SCREEN after admission (R163): the start is read only when the flag is set. -/
def stationScreenRule (on : Byte) (start : Half) (s : State) : State × Answer :=
  if flagOf on then
    if 2048 ≤ start.toNat then (s, bare .range)
    else ({ s with odc := { s.odc with screen := some start.toNat } }, okWith (.screen (some start.toNat)))
  else ({ s with odc := { s.odc with screen := none } }, okWith (.screen none))

/-- STATION_SCREEN (R163). -/
def execStationScreen (r : Req) (on : Byte) (start : Half) (s : State) : Host.Outcome State Fault Refusal :=
  serve r (Gate.fixed .station false 3 r) (unlessClearing r.port (stationScreenRule on start)) s

/-- The rows of a glyph as stored: the two high bits of each are dropped (R170). -/
def glyphRows (rows : B8) : B8 := rows.and ⟨0x3F, 0x3F, 0x3F, 0x3F, 0x3F, 0x3F, 0x3F, 0x3F⟩

/-- GLYPH LOAD after admission (R170). -/
def glyphLoadRule (code : Byte) (rows : B8) (s : State) : State × Answer :=
  if code.toNat < 0xE0 then (s, bare .range)
  else ({ s with odc := { s.odc with glyphs := Table.write {} s.odc.glyphs code.toNat (glyphRows rows) } },
    okWith (.glyph code (glyphRows rows)))

/-- GLYPH_LOAD (R170). -/
def execGlyphLoad (r : Req) (code : Byte) (rows : B8) (s : State) : Host.Outcome State Fault Refusal :=
  serve r (Gate.fixed .station false 9 r) (unlessClearing r.port (glyphLoadRule code rows)) s

/-- A change of the blink phase (R160): the phase follows rack time. -/
def changeBlink (s : State) : State := { s with odc := { s.odc with blinkOn := blinkPhase s.rackTime } }

/-- BLINK_PHASE_CHANGE (R160). -/
def execBlinkPhaseChange (s : State) : Host.Outcome State Fault Refusal := event changeBlink s

end Sys2Proof.Machine
end

