-- ==== Sys2Proof/Machine/Network.lean ====
section
/-! DEFINITION. The commands of the Network Stimulus Engine (chapter 3). -/

namespace Sys2Proof.Machine

/-! ### The Frame Table (R57 to R59) -/

/-- The entry FRAME WRITE stores (R57): *period* and *phase* clamped, the other fields as given. -/
def storedFrame (o : FrameOps) : FrameDef :=
  let period := if o.period = 0 then 0 else clampNat 5 10000 o.period.toNat
  { valid    := flagOf o.valid
    members  := o.members
    ident    := o.ident.toNat
    length   := o.length.toNat
    payload  := o.payload
    cls      := o.cls
    period   := period
    phase    := if period = 0 then 0 else clampNat 0 (period - 1) o.phase.toNat
    gate     := o.gate
    alive    := o.alive
    checksum := o.checksum
    mirror   := flagOf o.mirror }

/-- The field checks of R57, made for an entry that is valid. -/
def FrameDef.fieldsOk (d : FrameDef) : Bool :=
  0 < d.members.toNat && d.members.toNat < 4 && (classOf d.cls).isSome && d.gate.toNat < 2 &&
  d.ident < 2048 && d.length < 9 &&
  (match d.alive with
    | some (pos, nib) => nib.toNat < 2 && pos.toNat < d.length
    | none => true) &&
  (match d.checksum with
    | some c => c.toNat < d.length && (match d.alive with | some (pos, _) => c ≠ pos | none => true)
    | none => true)

/-- The write reaches a bay that is POWERED or TESTING (R57). -/
def State.frameInUse (s : State) (old new : FrameDef) (bay : Bay) : Bool :=
  ((old.valid && old.hasMember bay) || (new.valid && new.hasMember bay)) && (s.bayState bay).live

/-- A FRAME WRITE resets the runtime record of its entry; a frame of it still on the line is marked (R57, R80). -/
def Net.resetRt (i : Nat) (n : Net) : Net :=
  { n.setRt i {} with current := n.current.map fun c => if c.entry = i then c.restale else c }

/-- FRAME WRITE after admission (R57). -/
def frameWriteRule (index : Byte) (o : FrameOps) (s : State) : State × Answer :=
  let i := index.toNat
  let d := storedFrame o
  if s.frameInUse (s.frame i) d .a || s.frameInUse (s.frame i) d .b then (s, bare .state)
  else if d.valid && !d.fieldsOk then (s, bare .range)
  else
    ({ s with
        frames := Table.write {} s.frames i d
        nets := ⟨s.nets.a.resetRt i, s.nets.b.resetRt i⟩ }, okWith (.frameDef d))

/-- The runtime record FRAME READ reports for a bay, absent outside *members* (R58). -/
def State.runtimeOf (s : State) (i : Nat) (bay : Bay) : Option Runtime :=
  if (s.frame i).hasMember bay then some ((s.nets.get bay).rt i) else none

/-- FRAME READ after admission (R58). -/
def frameReadRule (index : Byte) (s : State) : State × Answer :=
  let i := index.toNat
  (s, okWith (.frameRead (s.frame i) (s.runtimeOf i .a) (s.runtimeOf i .b)))

/-- SET PAYLOAD after admission (R59). -/
def setPayloadRule (m : Master) (index offset : Byte) (bytes : List Byte) (s : State) : State × Answer :=
  let i := index.toNat
  let d := s.frame i
  if !d.valid || decide (8 < offset.toNat + bytes.length) then (s, bare .range)
  else if (match masterBay m with | some bay => !d.onlyMember bay | none => false) then (s, bare .denied)
  else
    ({ s with frames := Table.write {} s.frames i { d with payload := d.payload.write offset.toNat bytes } }, bare .ok)

/-- FRAME_WRITE (R57). -/
def execFrameWrite (r : Req) (index : Byte) (o : FrameOps) (s : State) : Host.Outcome State Fault Refusal :=
  serve r (Gate.fixed .station false 24 r) (frameWriteRule index o) s

/-- FRAME_READ (R58). -/
def execFrameRead (r : Req) (index : Byte) (s : State) : Host.Outcome State Fault Refusal :=
  serve r (Gate.fixed .station false 1 r) (frameReadRule index) s

/-- SET_PAYLOAD (R59); the request carries 2 operand bytes and 1 to 8 payload bytes. -/
def execSetPayload (r : Req) (index offset : Byte) (bytes : List Byte) (s : State) :
    Host.Outcome State Fault Refusal :=
  serve r ⟨.anyPort, 3 ≤ r.len.toNat && r.len.toNat ≤ 10 && r.len.toNat = 2 + bytes.length, false, false⟩
    (setPayloadRule r.port index offset bytes) s

/-! ### SEND and the port requests (R66, R78, R81) -/

/-- SEND after admission (R66). -/
def sendRule (bay : Bay) (index count : Byte) (s : State) : State × Answer :=
  let i := index.toNat
  let d := s.frame i
  let n := s.nets.get bay
  if !d.valid || d.period ≠ 0 || count = 0 then (s, bare .range)
  else if !d.hasMember bay then (s, bare .denied)
  else if !d.gateOpen (s.bayState bay) then (s, bare .state)
  else if n.portState ≠ .active then (s, bare .state)
  else if (n.rt i).queued then
    (s.setNet bay (n.setRt i { n.rt i with repeatLeft := count.toNat }), bare .ok)
  else if 32 ≤ (n.queues.get d.class).length then (s, bare .full)
  else
    ((s.setNet bay ((n.setRt i { n.rt i with repeatLeft := count.toNat }).enqueue d.class i)).select bay, bare .ok)

/-- SEND (R66). -/
def execSend (r : Req) (index count : Byte) (s : State) : Host.Outcome State Fault Refusal :=
  serve r (Gate.fixed .anyPort true 2 r) (sendRule r.bay index count) s

/-- NET RESUME after admission (R78). -/
def netResumeRule (bay : Bay) (s : State) : State × Answer :=
  let n := s.nets.get bay
  if (s.bayState bay).live ∧ n.portState = .faulted then
    ((s.setNet bay { n with portState := .active, fails := 0 }).select bay, bare .ok)
  else (s, bare .state)

/-- NET_RESUME (R78). -/
def execNetResume (r : Req) (s : State) : Host.Outcome State Fault Refusal :=
  serve r (Gate.fixed .anyPort true 0 r) (netResumeRule r.bay) s

/-- NET READ after admission (R81). -/
def netReadRule (bay : Bay) (s : State) : State × Answer :=
  let n := s.nets.get bay
  (s, okWith (.net n.portState n.tokens n.fails n.curClass n.credit
    (n.current.map fun c => (c.entry, c.attempts, c.finishing))
    [(n.queues.q3.length, n.queues.q3), (n.queues.q2.length, n.queues.q2),
     (n.queues.q1.length, n.queues.q1), (n.queues.q0.length, n.queues.q0)]))

/-- NET_READ (R81). -/
def execNetRead (r : Req) (s : State) : Host.Outcome State Fault Refusal :=
  serve r (Gate.fixed .anyPort true 0 r) (netReadRule r.bay) s

/-! ### Due events and accruals (R64, R68) -/

/-- A due event of an entry (R64); an entry whose *next_due* rack time has not reached is not due. -/
def frameFallsDue (bay : Bay) (i : Nat) (s : State) : State :=
  let n := s.nets.get bay
  let d := s.frame i
  let x := n.rt i
  match x.nextDue with
  | none => s
  | some due =>
    if reached s.rackTime due then
      let n1 := n.setRt i { x with nextDue := some (after due d.period) }
      if n.portState = .active ∧ x.queued = false ∧ (n.queues.get d.class).length < 32 then
        (s.setNet bay (n1.enqueue d.class i)).select bay
      else (s.setNet bay n1).count bay .overruns
    else s

/-- FRAME_DUE (R64). -/
def execFrameDue (bay : Bay) (index : Byte) (s : State) : Host.Outcome State Fault Refusal :=
  event (frameFallsDue bay index.toNat) s

/-- The accrual of a millisecond (R68), once in each while the port is in service, and the selection it allows. -/
def accrue (bay : Bay) (s : State) : State :=
  let n := s.nets.get bay
  let p := s.setups.get bay
  if n.portState ≠ .off ∧ n.accruedAt ≠ s.rackTime then
    (s.setNet bay { n with
      tokens := min (n.tokens + accrual n.bitRate p) p.bucketDepth, accruedAt := s.rackTime }).select bay
  else s

/-- TOKEN_ACCRUAL (R68). -/
def execTokenAccrual (bay : Bay) (s : State) : Host.Outcome State Fault Refusal :=
  event (accrue bay) s

/-! ### Attempts and their outcomes (R72 to R80) -/

/-- The attempt that a retried or resumed frame makes when the line is next idle (R73, R74): a retry counts and is
debited, a resumed attempt is neither. -/
def restartAttempt (bay : Bay) (s : State) : State :=
  let n : Net := { s.nets.get bay with lineBusy := false }
  match n.current with
  | some c =>
    if n.portState = .active ∧ c.onLine = false ∧ c.finishing = false then
      if c.arbLost then s.setNet bay { n with current := some { c with onLine := true, arbLost := false } }
      else s.setNet bay { n.debit (s.setups.get bay) (frameCost c.bytes.length) with
        current := some { c with onLine := true, attempts := c.attempts + 1 } }
    else s.setNet bay n
  | none => s.setNet bay n

/-- ATTEMPT_RESTART (R73, R74). -/
def execAttemptRestart (bay : Bay) (s : State) : Host.Outcome State Fault Refusal :=
  event (restartAttempt bay) s

/-- The outcome of a finishing frame (R80); after ARB_LOST the line carries the unit's frame, so nothing is selected. -/
def finishingOutcome (bay : Bay) (c : Current) (o : TxOutcome) (s : State) : State :=
  let s1 := if o = .acked then (s.count bay .txFrames).mirrorTx bay c else s.count bay .txDrops
  let n := s1.nets.get bay
  let n1 := if c.stale then n else n.advanceAlive c.entry
  let s2 := s1.setNet bay { n1 with current := none, lineBusy := false }
  if o = .arbLost then s2 else s2.selectIdle bay

/-- ACKED (R72, R76). -/
def ackedOutcome (bay : Bay) (c : Current) (s : State) : State :=
  let s1 := (s.count bay .txFrames).mirrorTx bay c
  (s1.setNet bay { (s1.nets.get bay).endFrame c with fails := 0, lineBusy := false }).selectIdle bay

/-- ARB_LOST (R74): the frame stays, and the unit's frame is on the line. -/
def arbLostOutcome (bay : Bay) (c : Current) (s : State) : State :=
  s.setNet bay { s.nets.get bay with
    current := some { c with onLine := false, arbLost := true }, lineBusy := true }

/-- NO_ACK or BUS_ERROR (R73): the frame is retried, or dropped after its last attempt; the sixteenth drop in a row
takes the port to FAULTED (R77). -/
def failedOutcome (bay : Bay) (c : Current) (s : State) : State :=
  let n := s.nets.get bay
  if c.attempts < 1 + (s.setups.get bay).retryLimit then
    (s.setNet bay { n with
      current := some { c with onLine := false, arbLost := false }, lineBusy := false }).count bay .txRetries
  else
    let s1 := s.count bay .txDrops
    let n1 : Net := { n.endFrame c with fails := n.fails + 1, lineBusy := false }
    if 16 ≤ n1.fails then
      (s1.setNet bay { n1.flush with portState := .faulted }).raiseBay .netFault none bay
    else (s1.setNet bay n1).selectIdle bay

/-- The outcome of the attempt on the line, with every effect in one event (R75). -/
def takeOutcome (bay : Bay) (o : TxOutcome) (s : State) : State :=
  match (s.nets.get bay).current with
  | some c =>
    if c.onLine then
      if c.finishing then finishingOutcome bay c o s
      else match o with
        | .acked => ackedOutcome bay c s
        | .arbLost => arbLostOutcome bay c s
        | .noAck => failedOutcome bay c s
        | .busError => failedOutcome bay c s
    else s
  | none => s

/-- ATTEMPT_OUTCOME (R75). -/
def execAttemptOutcome (bay : Bay) (o : TxOutcome) (s : State) : Host.Outcome State Fault Refusal :=
  event (takeOutcome bay o) s

end Sys2Proof.Machine
end

