-- ==== Sys2Proof/Machine/Ports.lean ====
section
/-! DEFINITION. The commands of the Master Port Interface (chapter 10). -/

namespace Sys2Proof.Machine

/-! ### Framing faults (R193) -/

/-- SEL rises before the request event: the bytes are discarded, no answer is sent, and a port held since RSTN was
released waits no longer (R193, R206). -/
def earlyRise (m : Master) (s : State) : State := { s with ports := s.ports.set m { held := false, answer := none } }

/-- SEL_RISES_EARLY (R193). -/
def execSelRisesEarly (m : Master) (s : State) : Host.Outcome State Fault Refusal := event (earlyRise m) s

/-- A request event that is answered by the port itself, before the checks of R194 (R193). -/
def portAnswer (st : Status) (r : Req) (s : State) : Host.Outcome State Fault Refusal :=
  .next (if s.listens r.port then s.reply r.port (bare st) else s)

/-- OPERAND_LENGTH_OVER_250 (R193): RANGE, whatever the code. -/
def execOperandLengthOver250 (r : Req) (_code : Byte) (s : State) : Host.Outcome State Fault Refusal :=
  portAnswer .range r s

/-- UNKNOWN_REQUEST (R193): UNKNOWN. -/
def execUnknownRequest (r : Req) (_code : Byte) (s : State) : Host.Outcome State Fault Refusal :=
  portAnswer .unknown r s

/-! ### STATUS READ (R205) -/

/-- What STATUS READ returns (R205). -/
def State.status (s : State) : Body :=
  .status s.rackTime s.bays.a.ctx.state s.bays.a.ctx.phase s.bays.b.ctx.state s.bays.b.ctx.phase
    s.store.state s.cal.uncal s.odc.screen s.vlg.log.length s.vlg.reservations.length s.vlg.threshold
    s.monitor.queue.length s.monitor.drops

/-- STATUS READ after admission (R205). -/
def statusReadRule (s : State) : State × Answer := (s, okWith s.status)

/-- STATUS_READ (R205), taken during the store load too. -/
def execStatusRead (r : Req) (s : State) : Host.Outcome State Fault Refusal :=
  serve r ⟨.anyPort, r.len.toNat = 0, false, true⟩ statusReadRule s

/-! ### ATTENTION READ (R202, R204) -/

/-- What ATTENTION READ removes: an edge flag, the notice slot it returns; a level entry stays. -/
def Attn.take (e : AttnEntry) (x : Attn) : Attn :=
  match e with
  | .edge f => { x with edges := x.edges.erase f }
  | .notice n => { x with notices := x.notices.erase n }
  | .log => x
  | .monitor => x

/-- ATTENTION READ after admission (R202). -/
def attentionReadRule (m : Master) (s : State) : State × Answer :=
  match s.attention m with
  | [] => (s, bare .empty)
  | e :: _ =>
    let t : State := { s with attn := s.attn.set m ((s.attn.get m).take e) }
    (t, okWith (.attention e (t.attention m).length))

/-- ATTENTION_READ (R202), taken during the store load too. -/
def execAttentionRead (r : Req) (s : State) : Host.Outcome State Fault Refusal :=
  serve r ⟨.anyPort, r.len.toNat = 0, false, true⟩ (attentionReadRule r.port) s

/-! ### NOTICE POST (R203) -/

/-- The slot of a sender among the full slots, if it is full. -/
def noticeOf (sender : Master) (l : List Notice) : Option Notice := l.find? fun n => n.sender = sender

/-- Post a code: an empty slot is filled and takes the last place in the order; a full one takes the new code, counts
the merge and keeps its place (R203). -/
def postNotice (sender : Master) (code : Byte) (l : List Notice) : List Notice :=
  if (noticeOf sender l).isSome then
    l.map fun n => if n.sender = sender then { n with code := code, merged := bumpTo 255 n.merged } else n
  else l ++ [{ sender := sender, code := code, merged := 0 }]

/-- *merged* of a sender's slot. -/
def mergedOf (sender : Master) (l : List Notice) : Nat := ((noticeOf sender l).map Notice.merged).getD 0

/-- NOTICE POST after admission (R203). -/
def noticePostRule (m : Master) (target code : Byte) (s : State) : State × Answer :=
  match masterOf target with
  | none => (s, bare .range)
  | some t =>
    if t = m then (s, bare .range)
    else
      let x := s.attn.get t
      let l := postNotice m code x.notices
      ({ s with attn := s.attn.set t { x with notices := l } }, okWith (.merged (mergedOf m l)))

/-- NOTICE_POST (R203). -/
def execNoticePost (r : Req) (target code : Byte) (s : State) : Host.Outcome State Fault Refusal :=
  serve r (Gate.fixed .anyPort false 2 r) (noticePostRule r.port target code) s

end Sys2Proof.Machine
end

