-- ==== Sys2Proof/Machine/Prompts.lean ====
section
/-! DEFINITION. The commands of the Prompt Unit but for the ABORT key (chapter 9). -/

namespace Sys2Proof.Machine

/-- The prompts in a bay's queue: the front, if there is one, and the waiting list (R178). -/
def Pru.size (u : Pru) : Nat := (if u.front = .empty then 0 else 1) + u.waiting.length

/-- The prompt record of a PROMPT's operands (R177). -/
def storedPrompt (m : Master) (kind : PromptKind) (o : PromptOps) : Prompt where
  promptId := o.promptId
  kind     := kind
  allowed  := keysOf o.allowed
  timeout  := if o.timeout = 0 then 0 else clampNat 100 600000 o.timeout.toNat
  page     := if o.page = 0xFFFF then none else some o.page.toNat
  blink    := flagOf o.blink
  poster   := m

/-- The key set suits the kind (R177): ACKNOWLEDGE exactly one key, VISUAL exactly YES and NO. -/
def KeySet.suits (k : KeySet) : PromptKind → Bool
  | .acknowledge => k.size = 1
  | .choice => true
  | .visual => k = ⟨true, true, false⟩

/-- The page, if one is given, is a cell of a bay half (R177). -/
def pageOk : Option Nat → Bool
  | some page => page < 800
  | none => true

/-- The place a new prompt took at the front. -/
def frontPlace : Front → PromptPlace
  | .pending _ => .pending
  | _ => .active

/-- PROMPT after admission: the checks of R177 in their order, then the queue (R178). -/
def promptRule (m : Master) (bay : Bay) (o : PromptOps) (s : State) : State × Answer :=
  if !(s.bayState bay).live then (s, bare .state)
  else match kindOf o.kind with
    | none => (s, bare .range)
    | some kind =>
      let u := s.prus.get bay
      let p := storedPrompt m kind o
      if kind = .visual ∧ s.bayState bay ≠ .testing then (s, bare .state)
      else if !keysValid o.allowed || !p.allowed.suits kind then (s, bare .range)
      else if !pageOk p.page then (s, bare .range)
      else if 5 ≤ u.size then (s, bare .full)
      else if kind = .visual ∧ s.vlg.admits bay = false then (s, bare .full)
      else if u.front = .empty then
        let t := promote bay (p :: u.waiting) s
        (t, okWith (.prompt p.timeout (frontPlace (t.prus.get bay).front)))
      else
        (s.setPru bay { u with waiting := u.waiting ++ [p] }, okWith (.prompt p.timeout (.waiting (u.waiting.length + 1))))

/-- PROMPT (R177). -/
def execPrompt (r : Req) (o : PromptOps) (s : State) : Host.Outcome State Fault Refusal :=
  serve r (Gate.fixed .anyPort true 10 r) (promptRule r.port r.bay o) s

/-- PROMPT CANCEL after admission (R185): release and answer, then the promotion, then the hand-over of the freed
place (notes/assumptions/9.md). -/
def promptCancelRule (bay : Bay) (id : Option Byte) (s : State) : State × Answer :=
  match (s.prus.get bay).front with
  | .active p since _ =>
    if id = none ∨ id = some p.promptId then
      let t := promote bay (s.prus.get bay).waiting (cancelActive bay p since s)
      (if p.kind = .visual then handOver t else t, okWith (.promptId p.promptId))
    else (s, bare .empty)
  | _ => (s, bare .empty)

/-- PROMPT_CANCEL (R185): no operand byte, or 1 with a *prompt_id*. -/
def execPromptCancel (r : Req) (id : Option Byte) (s : State) : Host.Outcome State Fault Refusal :=
  serve r ⟨.anyPort, (r.len.toNat = 0 && id.isNone) || (r.len.toNat = 1 && id.isSome), true, false⟩
    (promptCancelRule r.bay id) s

/-- ANSWER READ after admission (R184). -/
def answerReadRule (bay : Bay) (s : State) : State × Answer :=
  match (s.prus.get bay).slot with
  | none => (s, bare .empty)
  | some x => (s.setPru bay { s.prus.get bay with slot := none }, okWith (.answer x))

/-- ANSWER_READ (R184). -/
def execAnswerRead (r : Req) (s : State) : Host.Outcome State Fault Refusal :=
  serve r (Gate.fixed .anyPort true 0 r) (answerReadRule r.bay) s

/-- PROMPT READ after admission (R188). -/
def promptReadRule (bay : Bay) (s : State) : State × Answer :=
  let u := s.prus.get bay
  (s, okWith (.promptRead u.front (u.waiting.map fun p => (p.promptId, p.kind, p.poster)) u.slot.isNone))

/-- PROMPT_READ (R188). -/
def execPromptRead (r : Req) (s : State) : Host.Outcome State Fault Refusal :=
  serve r (Gate.fixed .anyPort true 0 r) (promptReadRule r.bay) s

/-- A press of YES, NO or REPEAT (R181): it answers the active prompt that allows it, later than the activation;
any other press is stray. -/
def pressKey (bay : Bay) (k : Key) (s : State) : State :=
  match (s.prus.get bay).front with
  | .active p since _ =>
    if p.allowed.has k = true ∧ s.rackTime ≠ since then
      answerActive bay p (Reply.ofKey k) (elapsed s.rackTime since) s
    else s.count bay .strayKeys
  | _ => s.count bay .strayKeys

/-- KEY_PRESS (R181). -/
def execKeyPress (bay : Bay) (k : Key) (s : State) : Host.Outcome State Fault Refusal := event (pressKey bay k) s

/-- The timer of the active prompt expires (R183). -/
def expirePrompt (bay : Bay) (s : State) : State :=
  match (s.prus.get bay).front with
  | .active p _ (some e) =>
    if reached s.rackTime e then (answerActive bay p .timeout p.timeout s).count bay .promptTimeouts else s
  | _ => s

/-- PROMPT_TIMER_EXPIRY (R183). -/
def execPromptTimerExpiry (bay : Bay) (s : State) : Host.Outcome State Fault Refusal := event (expirePrompt bay) s

end Sys2Proof.Machine
end

