-- ==== Sys2Proof/Machine/Responses.lean ====
section
/-! DEFINITION. The commands of the Response Monitor (chapter 4). -/

namespace Sys2Proof.Machine

/-! ### Reception (R85 to R89) -/

/-- The table's part of a reception: the entry of the key is updated, or the key is learned, or the miss is counted
(R86, R88). -/
def receiveEntry (bay : Bay) (ident : Nat) (data : List Byte) (s : State) : State :=
  match s.findKey bay ident with
  | some (i, r) => s.setResp i (some (r.update s.rackTime data))
  | none => match s.freeIndex with
    | some i => s.setResp i (some (learned bay ident s.rackTime data))
    | none => s.count bay .learnMisses

/-- The bay has a PINNED entry for the identifier. -/
def State.isPinned (s : State) (bay : Bay) (ident : Nat) : Bool :=
  match s.findKey bay ident with
  | some (_, r) => r.expectation.isSome
  | none => false

/-- A standard data frame (R86 to R89). -/
def receiveData (bay : Bay) (ident : Nat) (data : List Byte) (s : State) : State :=
  let s1 := (receiveEntry bay ident data s).count bay .rxFrames
  let s2 := if s.isPinned bay ident then s1 else (s1.count bay .rxUnknown).reportUnknown bay
  if (s.setups.get bay).mirrorRx then
    s2.offer { direction := .rx, bay := bay, ident := ident, data := data, time := s.rackTime }
  else s2

/-- A frame from the unit ends on the line: a port in service takes it (R60, R85), and the line is idle for the
selection of R67. -/
def receiveFrame (bay : Bay) (f : RxFrame) (s : State) : State :=
  let s1 :=
    if (s.nets.get bay).portState = .off then s
    else if f.foreign then s.count bay .rxUnknown
    else receiveData bay f.ident.toNat f.data s
  (s1.setNet bay { s1.nets.get bay with lineBusy := false }).selectIdle bay

/-- FRAME_RECEIVED (R85). -/
def execFrameReceived (bay : Bay) (f : RxFrame) (s : State) : Host.Outcome State Fault Refusal :=
  event (receiveFrame bay f) s

/-! ### Aging (R90) -/

/-- A LEARNED entry older than its bay's *age_limit* (R90). -/
def State.aged (s : State) (r : Resp) : Bool :=
  r.expectation.isNone && (match r.last with
    | some l => (s.setups.get r.bay).ageLimit < elapsed s.rackTime l.seen
    | none => false)

/-- The aging pass, made at each rack time that is a multiple of 100 (R90). -/
def agePass (s : State) : State :=
  if s.rackTime.toNat % 100 = 0 then s.mapResp fun r => if s.aged r then none else some r else s

/-- AGING_PASS (R90). -/
def execAgingPass (s : State) : Host.Outcome State Fault Refusal := event agePass s

/-! ### Expectations (R92, R93) -/

/-- The expectation EXPECT stores (R92): gaps clamped, *value* ANDed with *mask*. -/
def storedExpectation (o : ExpectOps) : Expectation where
  gapLow   := clampNat 0 60000 o.gapLow.toNat
  gapHigh  := clampNat 0 60000 o.gapHigh.toNat
  mask     := o.mask
  value    := o.value.and o.mask
  required := flagOf o.required

/-- EXPECT after admission (R92): the checks in their order, then the action by what the key holds. -/
def expectRule (bay : Bay) (o : ExpectOps) (s : State) : State × Answer :=
  let ident := o.ident.toNat
  let x := storedExpectation o
  if 2048 ≤ ident then (s, bare .range)
  else if x.gapLow ≠ 0 ∧ x.gapHigh ≠ 0 ∧ x.gapHigh < x.gapLow then (s, bare .range)
  else match s.findKey bay ident with
    | some (i, r) =>
      if r.expectation.isNone ∧ 40 ≤ s.pinned bay then (s, bare .full)
      else
        let r' : Resp := { r with expectation := some x, mismatch := 0 }
        (s.setResp i (some r'), okWith (.response i r'))
    | none => match s.freeIndex with
      | none => (s, bare .full)
      | some i =>
        if 40 ≤ s.pinned bay then (s, bare .full)
        else
          let r' : Resp := { bay := bay, ident := ident, expectation := some x }
          (s.setResp i (some r'), okWith (.response i r'))

/-- EXPECT (R92). -/
def execExpect (r : Req) (o : ExpectOps) (s : State) : Host.Outcome State Fault Refusal :=
  serve r (Gate.fixed .anyPort true 23 r) (expectRule r.bay o) s

/-- UNEXPECT after admission (R93). -/
def unexpectRule (bay : Bay) (ident : Half) (s : State) : State × Answer :=
  if 2048 ≤ ident.toNat then (s, bare .range)
  else match s.findKey bay ident.toNat with
    | some (i, r) => if r.expectation.isSome then (s.setResp i none, bare .ok) else (s, bare .empty)
    | none => (s, bare .empty)

/-- UNEXPECT (R93). -/
def execUnexpect (r : Req) (ident : Half) (s : State) : Host.Outcome State Fault Refusal :=
  serve r (Gate.fixed .anyPort true 2 r) (unexpectRule r.bay ident) s

/-! ### Reading and judging (R94 to R97) -/

/-- The entry a selector and two bytes name: by index (selector 0) or by key of the bay (selector 1); `none` when the
operands are out of range, `some none` when there is no entry (R94, R95). -/
def State.namedResp (s : State) (bay : Bay) (selector : Byte) (which : Half) : Option (Option (Nat × Resp)) :=
  if selector = 0 then
    if which.toNat < 128 then some ((s.respAt which.toNat).map fun r => (which.toNat, r)) else none
  else if selector = 1 then
    if which.toNat < 2048 then some (s.findKey bay which.toNat) else none
  else none

/-- RESPONSE READ after admission (R94): a sequencer may not read an entry of the other bay by index. -/
def responseReadRule (m : Master) (bay : Bay) (selector : Byte) (which : Half) (s : State) : State × Answer :=
  match s.namedResp bay selector which with
  | none => (s, bare .range)
  | some none => (s, bare .empty)
  | some (some (i, r)) =>
    if m ≠ .ssv ∧ r.bay ≠ bay then (s, bare .denied) else (s, okWith (.response i r))

/-- RESPONSE_READ (R94); the station's tag is checked for the form by key only (R197). -/
def execResponseRead (r : Req) (selector : Byte) (which : Half) (s : State) : Host.Outcome State Fault Refusal :=
  serve r (Gate.fixed .anyPort (selector = 1) 3 r) (responseReadRule r.port r.bay selector which) s

/-- The step of a CHECK RESPONSE (R97). -/
def responseDraft (count : Nat) (f : StepFlags) : StepDraft where
  source   := .response
  verdict  := reasonVerdict f
  value    := some count
  limit    := none
  promptId := none
  flags    := f

/-- CHECK RESPONSE after admission: the checks of R95 in their order, the judgement of R96, the step of R97. -/
def checkResponseRule (bay : Bay) (selector : Byte) (which : Half) (s : State) : State × Answer :=
  if s.bayState bay ≠ .testing then (s, bare .state)
  else match s.namedResp bay selector which with
    | none => (s, bare .range)
    | some none => (s, bare .empty)
    | some (some (_, r)) =>
      match r.expectation with
      | none => (s, bare .empty)
      | some x =>
        if r.bay ≠ bay then (s, bare .empty)
        else if !s.vlg.room || !s.vlg.admits bay then (s, bare .full)
        else
          let f := reasons s.rackTime x r
          (s.writeStep bay none (responseDraft r.count f),
            okWith (.judged (reasonVerdict f) f (s.vlg.stepsWritten.get bay) r.count r.gaps
              (r.last.map LastFrame.seen) r.mismatch))

/-- CHECK_RESPONSE (R95 to R97). -/
def execCheckResponse (r : Req) (selector : Byte) (which : Half) (s : State) : Host.Outcome State Fault Refusal :=
  serve r (Gate.fixed .anyPort true 3 r) (checkResponseRule r.bay selector which) s

/-! ### The Monitor Queue (R99) -/

/-- MONITOR POP after admission (R99). -/
def monitorPopRule (s : State) : State × Answer :=
  match s.monitor.queue with
  | [] => (s, bare .empty)
  | x :: l => ({ s with monitor := { s.monitor with queue := l } }, okWith (.monitor l.length x))

/-- MONITOR_POP (R99). -/
def execMonitorPop (r : Req) (s : State) : Host.Outcome State Fault Refusal :=
  serve r (Gate.fixed .station false 0 r) monitorPopRule s

end Sys2Proof.Machine
end

