-- ==== Sys2Proof/Machine/Sources.lean ====
section
/-! DEFINITION. The commands of the Source Pool and the Pin Matrix (chapter 2). -/

namespace Sys2Proof.Machine

/-! ### Claims (R36, R37) -/

/-- SOURCE CLAIM after admission (R36). -/
def sourceClaimRule (bay : Bay) (source : Byte) (s : State) : State × Answer :=
  if s.bayState bay = .safe then (s, bare .state)
  else match sourceOf source with
    | none => (s, bare .range)
    | some i =>
      let x := s.source i
      match x.owner with
      | none => ((s.setSource i { x with owner := some bay }).repark, bare .ok)
      | some o =>
        if o ≠ bay then (s, bare .denied)
        else if x.freeing then (s, bare .busy)
        else (s, bare .ok)

/-- SOURCE FREE after admission (R37). -/
def sourceFreeRule (bay : Bay) (source : Byte) (s : State) : State × Answer :=
  match sourceOf source with
  | none => (s, bare .range)
  | some i =>
    if (s.source i).owner ≠ some bay then (s, bare .denied)
    else if (s.routesOf i).isEmpty then ((s.freeSource i).repark, bare .ok)
    else ((s.freeSource i).repark, bare .accepted)

/-- SOURCE_CLAIM (R36). -/
def execSourceClaim (r : Req) (source : Byte) (s : State) : Host.Outcome State Fault Refusal :=
  serve r (Gate.fixed .anyPort true 1 r) (sourceClaimRule r.bay source) s

/-- SOURCE_FREE (R37). -/
def execSourceFree (r : Req) (source : Byte) (s : State) : Host.Outcome State Fault Refusal :=
  serve r (Gate.fixed .anyPort true 1 r) (sourceFreeRule r.bay source) s

/-! ### Settings (R44 to R51) -/

/-- The checks of R44 in order, then the setting `f` of the source with the operands it echoes; `f` answers none
where its own rule refuses STATE. -/
def settingRule (bay : Bay) (source : Byte) (pulse : Bool) (f : Source → Option (Source × List Echo)) (s : State) :
    State × Answer :=
  match sourceOf source with
  | none => (s, bare .range)
  | some i =>
    let x := s.source i
    if x.owner ≠ some bay then (s, bare .denied)
    else if x.freeing then (s, bare .busy)
    else if isPulse i ≠ pulse then (s, bare .range)
    else match f x with
      | none => (s, bare .state)
      | some (y, echo) =>
        (s.setSource i y.program,
          okWith (.setting (⟨1, i.val⟩ :: echo) (y.settingReport i) y.rangeFlag))

/-- Program a period (R49): stopped by an operand of 0, stopped above 4 000 000 ticks, otherwise `mode` with period
`t` (at least 20) and the high time `high` gives it. -/
def Source.setPeriod (mode : SourceMode) (high : Nat → Nat) (zero down up : Bool) (t : Nat) (x : Source) : Source :=
  if zero then { x with mode := .stopped, periodTicks := 0, highTicks := 0, rangeFlag := clampFlag down up }
  else if 4000000 < t then { x with mode := .stopped, periodTicks := 0, highTicks := 0, rangeFlag := .belowRange }
  else if t < 20 then { x with mode := mode, periodTicks := 20, highTicks := high 20, rangeFlag := .aboveRange }
  else { x with mode := mode, periodTicks := t, highTicks := high t, rangeFlag := clampFlag down up }

/-- A square wave: the odd tick goes to the low phase (2.4). -/
def squareHigh (t : Nat) : Nat := t / 2

/-- The high time of a duty (R50). -/
def dutyHigh (d t : Nat) : Nat := roundNat (t * d) 1000

/-- SET SPEED's setting (R46). -/
def Source.setSpeed (v k : Nat) (x : Source) : Source × List Echo :=
  let v' := clampNat 0 40000 v
  let k' := clampNat 100 65535 k
  (x.setPeriod .speed squareHigh (v' = 0) (clampedDown 40000 v || clampedDown 65535 k) (clampedUp 100 k)
    (roundNat 360000000000 (v' * k')), [⟨2, v'⟩, ⟨2, k'⟩])

/-- SET RPM's setting (R47). -/
def Source.setRpm (n p : Nat) (x : Source) : Source × List Echo :=
  let n' := clampNat 0 16000 n
  let p' := clampNat 1 12 p
  (x.setPeriod .rpm squareHigh (n' = 0) (clampedDown 16000 n || clampedDown 12 p) (clampedUp 1 p)
    (roundNat 60000000 (n' * p')), [⟨2, n'⟩, ⟨1, p'⟩])

/-- SET FREQUENCY's setting (R48): a source in PWM stays in PWM with its stored duty. -/
def Source.setFrequency (f : Nat) (x : Source) : Source × List Echo :=
  let f' := clampNat 0 50000000 f
  (x.setPeriod (if x.mode = .pwm then .pwm else .frequency)
    (if x.mode = .pwm then dutyHigh x.duty else squareHigh) (f' = 0)
    (clampedDown 50000000 f) false (roundNat 1000000000 f'), [⟨4, f'⟩])

/-- SET DUTY's setting (R50); STOPPED has no period to modulate. -/
def Source.setDuty (d : Nat) (x : Source) : Option (Source × List Echo) :=
  if x.mode = .stopped then none
  else
    let d' := clampNat 0 1000 d
    some ({ x with
      mode := .pwm, duty := d', highTicks := dutyHigh d' x.periodTicks
      rangeFlag := clampFlag (clampedDown 1000 d) false }, [⟨2, d'⟩])

/-- SET LEVEL's setting (R51); the operand echoed is the level the stored code stands for (notes/assumptions/28.md). -/
def Source.setLevel (mv : Int) (x : Source) : Source × List Echo :=
  let code := (clampInt 0 4000 (roundInt mv 4)).toNat
  ({ x with
    levelCode := code
    rangeFlag := if 16000 < mv then .aboveRange else if mv < 0 then .belowRange else .none }, [⟨4, (code : Int) * 4⟩])

/-- SET_SPEED (R44, R46). -/
def execSetSpeed (r : Req) (source : Byte) (v k : Half) (s : State) : Host.Outcome State Fault Refusal :=
  serve r (Gate.fixed .anyPort true 5 r)
    (settingRule r.bay source true fun x => some (x.setSpeed v.toNat k.toNat)) s

/-- SET_RPM (R44, R47). -/
def execSetRpm (r : Req) (source : Byte) (rpm : Half) (p : Byte) (s : State) : Host.Outcome State Fault Refusal :=
  serve r (Gate.fixed .anyPort true 4 r)
    (settingRule r.bay source true fun x => some (x.setRpm rpm.toNat p.toNat)) s

/-- SET_FREQUENCY (R44, R48). -/
def execSetFrequency (r : Req) (source : Byte) (f : Full) (s : State) : Host.Outcome State Fault Refusal :=
  serve r (Gate.fixed .anyPort true 5 r)
    (settingRule r.bay source true fun x => some (x.setFrequency f.toNat)) s

/-- SET_DUTY (R44, R50). -/
def execSetDuty (r : Req) (source : Byte) (d : Half) (s : State) : Host.Outcome State Fault Refusal :=
  serve r (Gate.fixed .anyPort true 3 r) (settingRule r.bay source true (Source.setDuty d.toNat)) s

/-- SET_LEVEL (R44, R51). -/
def execSetLevel (r : Req) (source : Byte) (mv : Full) (s : State) : Host.Outcome State Fault Refusal :=
  serve r (Gate.fixed .anyPort true 5 r)
    (settingRule r.bay source false fun x => some (x.setLevel (signed mv))) s

/-- SOURCE READ after admission (R52): the programmed setting, not the period the generator runs. -/
def sourceReadRule (source : Byte) (s : State) : State × Answer :=
  match sourceOf source with
  | none => (s, bare .range)
  | some i =>
    let x := s.source i
    (s, okWith (.source (kindOfSource i) x.ownerReport (x.settingReport i) x.parked x.rangeFlag
      ((s.routesOf i).map Route.report)))

/-- SOURCE_READ (R52). -/
def execSourceRead (r : Req) (source : Byte) (s : State) : Host.Outcome State Fault Refusal :=
  serve r (Gate.fixed .anyPort false 1 r) (sourceReadRule source) s

/-! ### Routes (R40 to R42) -/

/-- The bay states in which a route may be closed (R41). -/
def BayState.mayClose : BayState → Bool
  | .contacted | .powering | .powered | .testing => true
  | _ => false

/-- The record of a source for a pin of a bay. -/
def State.routeAt (s : State) (i : Fin 8) (bay : Bay) (pin : Fin 48) : Option Route :=
  s.routes.find? fun r => r.source = i && r.bay = bay && r.pin = pin

/-- ROUTE CLOSE after admission: the checks of R41 in their order. -/
def routeCloseRule (bay : Bay) (source pin : Byte) (s : State) : State × Answer :=
  if !(s.bayState bay).mayClose then (s, bare .state)
  else match sourceOf source, pinOf pin with
    | some i, some p =>
      let x := s.source i
      let found := s.routeAt i bay p
      let isOpening := match found with
        | some q => !q.state.makes
        | none => false
      if x.owner ≠ some bay then (s, bare .denied)
      else if x.freeing then (s, bare .busy)
      else if (s.setups.get bay).reservedPins.getLsbD p.val then (s, bare .denied)
      else if isOpening then (s, bare .busy)
      else if s.routes.any (fun q => q.source ≠ i && q.bay = bay && q.pin = p && q.state.makes) then (s, bare .denied)
      else if found.isNone ∧ 4 ≤ (s.routesOf i).length then (s, bare .full)
      else if s.settling ∧ s.rackTime.toNat < 3 then (s, bare .busy)
      else match found with
        | some q => (s, bare (if q.state = .closed then .ok else .accepted))
        | none =>
          let t : State := { s with routes := s.routes ++ [⟨i, bay, p, .closing (after s.rackTime 3)⟩] }
          (t.repark, bare .accepted)
    | _, _ => (s, bare .range)

/-- ROUTE OPEN after admission (R42). -/
def routeOpenRule (bay : Bay) (source pin : Byte) (s : State) : State × Answer :=
  match sourceOf source, pinOf pin with
  | some i, some p =>
    if (s.source i).owner ≠ some bay then (s, bare .denied)
    else if (s.routeAt i bay p).isNone then (s, bare .empty)
    else ((s.openRoutes fun r => r.source = i && r.bay = bay && r.pin = p).repark, bare .accepted)
  | _, _ => (s, bare .range)

/-- ROUTE_CLOSE (R41). -/
def execRouteClose (r : Req) (source pin : Byte) (s : State) : Host.Outcome State Fault Refusal :=
  serve r (Gate.fixed .anyPort true 2 r) (routeCloseRule r.bay source pin) s

/-- ROUTE_OPEN (R42). -/
def execRouteOpen (r : Req) (source pin : Byte) (s : State) : Host.Outcome State Fault Refusal :=
  serve r (Gate.fixed .anyPort true 2 r) (routeOpenRule r.bay source pin) s

/-- The transition of a route has reached its end. -/
def Route.ended (now : Time) (r : Route) : Bool :=
  match r.state with
  | .closing e | .opening e => reached now e
  | .closed => false

/-- The completion of a route's transition (R40): CLOSING becomes CLOSED, OPENING is removed, and a *freeing*
source left without records becomes FREE (R38). -/
def completeRoute (i : Fin 8) (bay : Bay) (pin : Fin 48) (s : State) : State :=
  let here : Route → Bool := fun q => q.source = i && q.bay = bay && q.pin = pin && q.ended s.rackTime
  if s.routes.any here then
    let s1 : State :=
      { s with routes := (s.routes.filter fun q => !(here q && !q.state.makes)).map fun q =>
          if here q then { q with state := .closed } else q }
    let s2 := if (s1.source i).freeing = true ∧ (s1.routesOf i).isEmpty = true then s1.setSource i {} else s1
    s2.repark
  else s

/-- ROUTE_TRANSITION_COMPLETE (R40); a transition that has not reached its end does not complete. -/
def execRouteTransitionComplete (i : Fin 8) (bay : Bay) (pin : Fin 48) (s : State) :
    Host.Outcome State Fault Refusal :=
  event (completeRoute i bay pin) s

/-- The end of a running period (R45): the generator takes the programmed setting as it then stands. -/
def endPeriod (i : Fin 8) (s : State) : State :=
  let x := s.source i
  if x.generator.isSome then s.setSource i { x with generator := x.programmed } else s

/-- PULSE_PERIOD_END (R45). -/
def execPulsePeriodEnd (i : Fin 8) (s : State) : Host.Outcome State Fault Refusal :=
  event (endPeriod i) s

end Sys2Proof.Machine
end

