-- ==== Sys2Proof/Machine/StoreOps.lean ====
section
/-! DEFINITION. Shared operations of power-on, rack reset and the calibration store (chapter 11). -/

namespace Sys2Proof.Machine

/-! ### Power-on and rack reset values -/

/-- A bay's state by UNIT_PRESENT (R32, R209). -/
def restingState (x : Inputs) : BayState := if x.unitPresent then .loaded else .vacant

/-- A Bay Controller right after power-on or rack reset (R32): the default policy is that of its Bay Setup record. -/
def restingBay (x : Inputs) (p : Setup) : BayCtl where
  ctx := { state := restingState x, policy := p.policy }

/-- A bay's part of the Network Stimulus Engine right after power-on or rack reset (R82): the port OFF, *bit_rate* and
*credit* of the Bay Setup record. -/
def restingNet (p : Setup) : Net := { bitRate := p.bitRate, credit := p.w2 }

/-- The part right after power-on (R209), with the pins as they stand and SEL low at the ports that `low` marks: those
take no request until SEL has risen (R206). What lies outside the part is kept: the input levels, the model's own
counter and the waiting commands. -/
def State.powerOn (low : Tri Bool) (s : State) : State :=
  { State.reset with
    inputs    := s.inputs
    emergency := s.emergency
    bays      := ⟨restingBay s.inputs.a {}, restingBay s.inputs.b {}⟩
    ports     := ⟨{ held := low.bsqA }, { held := low.bsqB }, { held := low.ssv }⟩
    choices   := s.choices
    pending   := s.pending }

/-- A rack reset (R212): the reset values of every block but for what the table of R212 keeps, then BAY_STATE to each
sequencer. The ports keep their select periods (R206). -/
def State.rackReset (s : State) : State :=
  let t : State :=
    { State.reset with
      inputs    := s.inputs
      emergency := s.emergency
      bays      := ⟨restingBay s.inputs.a s.setups.a, restingBay s.inputs.b s.setups.b⟩
      setups    := s.setups
      nets      := ⟨restingNet s.setups.a, restingNet s.setups.b⟩
      cal       := s.cal
      store     := s.store
      ports     := s.ports
      choices   := s.choices
      pending   := s.pending }
  (t.raise .bsqA ⟨.bayState, some .a, .none⟩).raise .bsqB ⟨.bayState, some .b, .none⟩

/-! ### Loss of reset or supply -/

/-- RSTN low or the supply lost: every operation is cut off and the port answers are gone (R209, R211). -/
def State.cutOff (s : State) : State :=
  { s with
    running := false
    ports   := ⟨{ s.ports.bsqA with answer := none }, { s.ports.bsqB with answer := none },
      { s.ports.ssv with answer := none }⟩ }

/-! ### The image (R207, R208) -/

/-- The four bytes of a calibration record (R207): *gain* unsigned, *offset* signed. -/
def CalRec.bytes (x : CalRec) : List Byte := bytes16 (BitVec.ofNat 16 x.gain) ++ bytes16 (BitVec.ofInt 16 x.offset)

/-- The ten positions of the Calibration Set (R130). -/
def calPositions : List Nat := [0, 1, 2, 3, 4, 5, 6, 7, 8, 9]

/-- The image of the set in use (R208, R210): the signature, then the ten records. -/
def Cal.image (c : Cal) : List Byte :=
  0xC7 :: calPositions.flatMap fun p => (Table.read ({} : CalRec) c.recs p).bytes

/-- The record at a position of an image (R207). -/
def imageRec (image : List Byte) (p : Nat) : CalRec where
  gain   := (half (image.getD (1 + 4 * p) 0) (image.getD (2 + 4 * p) 0)).toNat
  offset := (half (image.getD (3 + 4 * p) 0) (image.getD (4 + 4 * p) 0)).toInt

/-- A valid image (R209): 41 bytes with the signature. -/
def imageValid (image : List Byte) : Bool := image.length = 41 && image.head? = some 0xC7

/-- The records of an image (R209). -/
def imageRecs (image : List Byte) : Table CalRec :=
  calPositions.foldl (fun t p => Table.write {} t p (imageRec image p)) []

/-- The single-byte writes of a save in order, each a store offset and a value (R211): the signature cleared, the
records, the signature set. The verify that follows reads offsets 0 to 40 back. -/
def saveWrites (buffer : List Byte) : List (Nat × Byte) :=
  (0, 0x00) :: ((List.range 40).map fun i => (i + 1, buffer.getD (i + 1) 0)) ++ [(0, 0xC7)]

/-- How many writes a save makes (R211). -/
def saveLength : Nat := 42

/-- The write that waits for its acknowledge, absent when all have it (R211). -/
def Save.write (x : Save) : Option (Nat × Byte) := (saveWrites x.buffer)[x.written]?

/-- A content of the store after the writes that it has acknowledged (R211). -/
def Save.stored (x : Save) (old : List Byte) : List Byte :=
  ((saveWrites x.buffer).take x.written).foldl (fun l w => l.set w.1 w.2) old

/-- A save begins (R210): the first write is sent. -/
def Save.begin (image : List Byte) (now : Time) : Save := { buffer := image, written := 0, sentAt := now }

/-- A millisecond of a save in which the store acknowledges `k` writes, each answered by the next write (R211). -/
def Save.poll (k : Nat) (now : Time) (x : Save) : Save :=
  if k = 0 then x else { x with written := min saveLength (x.written + k), sentAt := now }

/-- The present write is still unacknowledged 20 ms after it was sent (R211). -/
def Save.overdue (now : Time) (x : Save) : Bool := x.written < saveLength && 20 ≤ elapsed now x.sentAt

/-- The verify has read the buffer back (R211). -/
def Save.verified (x : Save) (how : SaveEnd) : Bool :=
  match how with
  | .readBack bytes => bytes = x.buffer
  | .noAck => false
  | .timeLimit => false

/-- The outcome has come to pass: the verify follows the last acknowledged write of the stages, and the time limit needs
an overdue write (R211). -/
def Save.endsBy (x : Save) (how : SaveEnd) (now : Time) : Bool :=
  match how with
  | .readBack _ => saveLength ≤ x.written
  | .noAck => true
  | .timeLimit => x.overdue now

/-- STORE to the station (R198). -/
def State.raiseStore (s : State) : State := s.raise .ssv ⟨.store, none, .none⟩

/-- The Calibration Set after a load (R209): the records of a valid image, else the defaults and UNCAL. -/
def loadedCal (how : LoadEnd) (c : Cal) : Cal :=
  match how with
  | .image bytes => if imageValid bytes then { recs := imageRecs bytes, uncal := false } else c
  | .noAck => c
  | .timeLimit => c

end Sys2Proof.Machine
end

