-- ==== Sys2Proof/Machine/Store.lean ====
section
/-! DEFINITION. Power-on, reset, the calibration store and RACK RESET (chapter 11). -/

namespace Sys2Proof.Machine

/-- POWER_ON (R209), with the SEL levels at the release. -/
def execPowerOn (selA selB selS : Bool) (s : State) : Host.Outcome State Fault Refusal :=
  .next (s.powerOn ⟨!selA, !selB, !selS⟩)

/-- RSTN_LOW (R209): every operation is cut off until the release. -/
def execRstnLow (s : State) : Host.Outcome State Fault Refusal := .next s.cutOff

/-- SUPPLY_LOSS (R211): every operation is cut off until the supply rises. -/
def execSupplyLoss (s : State) : Host.Outcome State Fault Refusal := .next s.cutOff

/-- The outcome has come to pass: the time limit needs 100 ms of rack time (R209). -/
def loadEndsBy (how : LoadEnd) (now : Time) : Bool :=
  match how with
  | .image _ => true
  | .noAck => true
  | .timeLimit => 100 ≤ now.toNat

/-- The end of the power-on load (R209). -/
def endLoad (how : LoadEnd) (s : State) : State :=
  if s.store.state = .loading ∧ loadEndsBy how s.rackTime = true then
    State.raiseStore { s with cal := loadedCal how s.cal, store := { s.store with state := .ready } }
  else s

/-- END_OF_LOAD (R209). -/
def execEndOfLoad (how : LoadEnd) (s : State) : Host.Outcome State Fault Refusal := event (endLoad how) s

/-- CAL SAVE after admission (R210). -/
def calSaveRule (s : State) : State × Answer :=
  if s.store.state = .saving then (s, bare .busy)
  else ({ s with store := { state := .saving, save := some (Save.begin s.cal.image s.rackTime) } }, bare .accepted)

/-- CAL_SAVE (R210). -/
def execCalSave (r : Req) (s : State) : Host.Outcome State Fault Refusal :=
  serve r (Gate.fixed .station false 0 r) calSaveRule s

/-- The end of a save (R211): a success when the bytes read back equal the buffer, a bus failure otherwise. -/
def endSave (how : SaveEnd) (s : State) : State :=
  match s.store.save with
  | some x =>
    if s.store.state = .saving ∧ x.endsBy how s.rackTime = true then
      State.raiseStore { s with
        store := { state := if x.verified how then .ready else .fault, save := none }
        cal   := { s.cal with uncal := s.cal.uncal && !x.verified how } }
    else s
  | none => s

/-- CAL_SAVE_END (R211). -/
def execCalSaveEnd (how : SaveEnd) (s : State) : Host.Outcome State Fault Refusal := event (endSave how) s

/-- RACK RESET after admission (R212). -/
def rackResetRule (s : State) : State × Answer :=
  if s.store.state = .saving then (s, bare .busy)
  else
    let t := s.rackReset
    (t, okWith (.rack t.store.state t.cal.uncal t.bays.a.ctx.state t.bays.b.ctx.state))

/-- RACK_RESET (R212). -/
def execRackReset (r : Req) (s : State) : Host.Outcome State Fault Refusal :=
  serve r (Gate.fixed .station false 0 r) rackResetRule s

end Sys2Proof.Machine
end

