-- ==== Sys2Proof/Machine/VerdictLog.lean ====
section
/-! DEFINITION. The commands of the Verdict Log (chapter 7). -/

namespace Sys2Proof.Machine

/-- The step of a NOTE STEP (R150). -/
def noteDraft (v : StepVerdict) (value : Option Int) : StepDraft where
  source   := .sequencer
  verdict  := v
  value    := value
  limit    := none
  promptId := none
  flags    := {}

/-- NOTE STEP after admission: the checks of R150 in their order, then the immediate write. -/
def noteStepRule (bay : Bay) (verdict : Byte) (value : Option Full) (s : State) : State × Answer :=
  if s.bayState bay ≠ .testing then (s, bare .state)
  else match verdictOf verdict with
    | none => (s, bare .range)
    | some v =>
      if !s.vlg.room || !s.vlg.admits bay then (s, bare .full)
      else (s.writeStep bay none (noteDraft v (value.map signed)), okWith (.step (s.vlg.stepsWritten.get bay)))

/-- NOTE_STEP (R150): 1 operand byte, or 5 with a value. -/
def execNoteStep (r : Req) (verdict : Byte) (value : Option Full) (s : State) : Host.Outcome State Fault Refusal :=
  serve r ⟨.bayPorts, (r.len.toNat = 1 && value.isNone) || (r.len.toNat = 5 && value.isSome), false, false⟩
    (noteStepRule r.bay verdict value) s

/-- LOG POP after admission (R151): the head record, and its place handed to the Prompt Units (R145). -/
def logPopRule (s : State) : State × Answer :=
  match s.vlg.log with
  | [] => (s, bare .empty)
  | x :: l => (handOver (s.setVlg { s.vlg with log := l }), okWith (.log l.length x))

/-- LOG_POP (R151). -/
def execLogPop (r : Req) (s : State) : Host.Outcome State Fault Refusal :=
  serve r (Gate.fixed .station false 0 r) logPopRule s

/-- LOG SETUP after admission (R152): the threshold is clamped to 1 to 128. -/
def logSetupRule (threshold : Byte) (s : State) : State × Answer :=
  let t := clampNat 1 128 threshold.toNat
  (s.setVlg { s.vlg with threshold := t }, okWith (.logSetup t s.vlg.log.length s.vlg.reservations.length))

/-- LOG_SETUP (R152). -/
def execLogSetup (r : Req) (threshold : Byte) (s : State) : Host.Outcome State Fault Refusal :=
  serve r (Gate.fixed .station false 1 r) (logSetupRule threshold) s

/-- The values of `n` counters from an index on. -/
def readStats (t : Table Nat) : Nat → Nat → List Nat
  | _, 0 => []
  | i, n + 1 => Table.read 0 t i :: readStats t (i + 1) n

/-- Set `n` counters from an index on to 0. -/
def clearStats : Nat → Nat → Table Nat → Table Nat
  | _, 0, t => t
  | i, n + 1, t => clearStats (i + 1) n (Table.write 0 t i 0)

/-- STATS READ after admission (R155). -/
def statsReadRule (bay : Bay) (first count clear : Byte) (s : State) : State × Answer :=
  let i := first.toNat
  let n := count.toNat
  if 15 < i ∨ n = 0 ∨ 16 < n ∨ 16 < i + n then (s, bare .range)
  else
    let t := s.stats.get bay
    (if flagOf clear then { s with stats := s.stats.set bay (clearStats i n t) } else s,
      okWith (.stats bay i n (readStats t i n)))

/-- STATS_READ (R155). -/
def execStatsRead (r : Req) (first count clear : Byte) (s : State) : Host.Outcome State Fault Refusal :=
  serve r (Gate.fixed .station true 3 r) (statsReadRule r.bay first count clear) s

end Sys2Proof.Machine
end

