-- ==== Sys2Proof/Machine/Dispatch.lean ====
section
/-! DEFINITION. The meaning of each command, one arm per constructor of `Instr`. -/

namespace Sys2Proof.Machine

open Sys2Proof

/-- The effect of a command on everything but the queue of waiting commands. -/
def exec (i : Instr) (s : State) : Host.Outcome State Fault Refusal :=
  match i with
  | .powerOn selA selB selS => Sys2Proof.Machine.execPowerOn selA selB selS s
  | .rstnLow => Sys2Proof.Machine.execRstnLow s
  | .endOfLoad how => Sys2Proof.Machine.execEndOfLoad how s
  | .calSaveEnd how => Sys2Proof.Machine.execCalSaveEnd how s
  | .selRisesEarly port => Sys2Proof.Machine.execSelRisesEarly port s
  | .operandLengthOver250 r code => Sys2Proof.Machine.execOperandLengthOver250 r code s
  | .unknownRequest r code => Sys2Proof.Machine.execUnknownRequest r code s
  | .statusRead r => Sys2Proof.Machine.execStatusRead r s
  | .attentionRead r => Sys2Proof.Machine.execAttentionRead r s
  | .noticePost r target code => Sys2Proof.Machine.execNoticePost r target code s
  | .clamp r => Sys2Proof.Machine.execClamp r s
  | .contact r => Sys2Proof.Machine.execContact r s
  | .power r => Sys2Proof.Machine.execPower r s
  | .start r o => Sys2Proof.Machine.execStart r o s
  | .finish r => Sys2Proof.Machine.execFinish r s
  | .unload r => Sys2Proof.Machine.execUnload r s
  | .abort r => Sys2Proof.Machine.execAbort r s
  | .release r => Sys2Proof.Machine.execRelease r s
  | .bayReset r => Sys2Proof.Machine.execBayReset r s
  | .baySetupWrite r o => Sys2Proof.Machine.execBaySetupWrite r o s
  | .baySetupRead r => Sys2Proof.Machine.execBaySetupRead r s
  | .bayRead r => Sys2Proof.Machine.execBayRead r s
  | .sourceClaim r source => Sys2Proof.Machine.execSourceClaim r source s
  | .sourceFree r source => Sys2Proof.Machine.execSourceFree r source s
  | .setSpeed r source v k => Sys2Proof.Machine.execSetSpeed r source v k s
  | .setRpm r source rpm p => Sys2Proof.Machine.execSetRpm r source rpm p s
  | .setFrequency r source f => Sys2Proof.Machine.execSetFrequency r source f s
  | .setDuty r source d => Sys2Proof.Machine.execSetDuty r source d s
  | .setLevel r source mv => Sys2Proof.Machine.execSetLevel r source mv s
  | .sourceRead r source => Sys2Proof.Machine.execSourceRead r source s
  | .routeClose r source pin => Sys2Proof.Machine.execRouteClose r source pin s
  | .routeOpen r source pin => Sys2Proof.Machine.execRouteOpen r source pin s
  | .frameWrite r index o => Sys2Proof.Machine.execFrameWrite r index o s
  | .frameRead r index => Sys2Proof.Machine.execFrameRead r index s
  | .setPayload r index offset bytes => Sys2Proof.Machine.execSetPayload r index offset bytes s
  | .send r index count => Sys2Proof.Machine.execSend r index count s
  | .netResume r => Sys2Proof.Machine.execNetResume r s
  | .netRead r => Sys2Proof.Machine.execNetRead r s
  | .expect r o => Sys2Proof.Machine.execExpect r o s
  | .unexpect r ident => Sys2Proof.Machine.execUnexpect r ident s
  | .responseRead r selector which => Sys2Proof.Machine.execResponseRead r selector which s
  | .checkResponse r selector which => Sys2Proof.Machine.execCheckResponse r selector which s
  | .monitorPop r => Sys2Proof.Machine.execMonitorPop r s
  | .meuClaim r => Sys2Proof.Machine.execMeuClaim r s
  | .meuRelease r => Sys2Proof.Machine.execMeuRelease r s
  | .measure r o => Sys2Proof.Machine.execMeasure r o s
  | .resultRead r => Sys2Proof.Machine.execResultRead r s
  | .meuRead r => Sys2Proof.Machine.execMeuRead r s
  | .calWrite r range gain offset => Sys2Proof.Machine.execCalWrite r range gain offset s
  | .calRead r range => Sys2Proof.Machine.execCalRead r range s
  | .limitWrite r index o => Sys2Proof.Machine.execLimitWrite r index o s
  | .limitRead r index => Sys2Proof.Machine.execLimitRead r index s
  | .noteStep r verdict value => Sys2Proof.Machine.execNoteStep r verdict value s
  | .logPop r => Sys2Proof.Machine.execLogPop r s
  | .logSetup r threshold => Sys2Proof.Machine.execLogSetup r threshold s
  | .statsRead r first count clear => Sys2Proof.Machine.execStatsRead r first count clear s
  | .setCursor r address => Sys2Proof.Machine.execSetCursor r address s
  | .displayWrite r codes => Sys2Proof.Machine.execDisplayWrite r codes s
  | .displayRead r count => Sys2Proof.Machine.execDisplayRead r count s
  | .attrSet r flag count => Sys2Proof.Machine.execAttrSet r flag count s
  | .attrClear r flag count => Sys2Proof.Machine.execAttrClear r flag count s
  | .clearArea r count => Sys2Proof.Machine.execClearArea r count s
  | .setWindow r start => Sys2Proof.Machine.execSetWindow r start s
  | .stationScreen r on start => Sys2Proof.Machine.execStationScreen r on start s
  | .glyphLoad r code rows => Sys2Proof.Machine.execGlyphLoad r code rows s
  | .prompt r o => Sys2Proof.Machine.execPrompt r o s
  | .promptCancel r promptId => Sys2Proof.Machine.execPromptCancel r promptId s
  | .answerRead r => Sys2Proof.Machine.execAnswerRead r s
  | .promptRead r => Sys2Proof.Machine.execPromptRead r s
  | .calSave r => Sys2Proof.Machine.execCalSave r s
  | .rackReset r => Sys2Proof.Machine.execRackReset r s
  | .unitPresentRising bay => Sys2Proof.Machine.execUnitPresentRising bay s
  | .unitPresentFalling bay => Sys2Proof.Machine.execUnitPresentFalling bay s
  | .clampClosedRising bay => Sys2Proof.Machine.execClampClosedRising bay s
  | .clampClosedFalling bay => Sys2Proof.Machine.execClampClosedFalling bay s
  | .contactMadeRising bay => Sys2Proof.Machine.execContactMadeRising bay s
  | .contactMadeFalling bay => Sys2Proof.Machine.execContactMadeFalling bay s
  | .interlockOkFalling bay => Sys2Proof.Machine.execInterlockOkFalling bay s
  | .emergencyActive first => Sys2Proof.Machine.execEmergencyActive first s
  | .emergencyInactive => Sys2Proof.Machine.execEmergencyInactive s
  | .fixtureTimerExpiry bay => Sys2Proof.Machine.execFixtureTimerExpiry bay s
  | .routeTransitionComplete source bay pin => Sys2Proof.Machine.execRouteTransitionComplete source bay pin s
  | .pulsePeriodEnd source => Sys2Proof.Machine.execPulsePeriodEnd source s
  | .frameDue bay index => Sys2Proof.Machine.execFrameDue bay index s
  | .tokenAccrual bay => Sys2Proof.Machine.execTokenAccrual bay s
  | .attemptRestart bay => Sys2Proof.Machine.execAttemptRestart bay s
  | .attemptOutcome bay outcome => Sys2Proof.Machine.execAttemptOutcome bay outcome s
  | .frameReceived bay frame => Sys2Proof.Machine.execFrameReceived bay frame s
  | .agingPass => Sys2Proof.Machine.execAgingPass s
  | .holdTimerExpiry => Sys2Proof.Machine.execHoldTimerExpiry s
  | .senseConnectComplete => Sys2Proof.Machine.execSenseConnectComplete s
  | .senseDisconnectComplete => Sys2Proof.Machine.execSenseDisconnectComplete s
  | .settleEnd => Sys2Proof.Machine.execSettleEnd s
  | .sampleTaken code => Sys2Proof.Machine.execSampleTaken code s
  | .blinkPhaseChange => Sys2Proof.Machine.execBlinkPhaseChange s
  | .clearBlock master => Sys2Proof.Machine.execClearBlock master s
  | .keyPress bay key => Sys2Proof.Machine.execKeyPress bay key s
  | .promptTimerExpiry bay => Sys2Proof.Machine.execPromptTimerExpiry bay s
  | .abortKey bay => Sys2Proof.Machine.execAbortKey bay s
  | .interlockOkRising bay => Sys2Proof.Machine.execInterlockOkRising bay s
  | .supplyLoss => Sys2Proof.Machine.execSupplyLoss s

end Sys2Proof.Machine
end

