-- ==== Sys2Proof/Machine/Tick.lean ====
section
/-! DEFINITION. What the part does with no command waiting: rack time goes on by a millisecond, and each event that
falls due is taken as an event of its own (notes/assumptions/1.md). -/

namespace Sys2Proof.Machine

/-- A list of one element where a condition holds. -/
def dueIf (c : Bool) (i : Instr) : List Instr := if c then [i] else []

/-- The expiry time, if there is one, has been reached. -/
def reachedAt (now : Time) : Option Time → Bool
  | some e => reached now e
  | none => false

/-- The prompt timer of a bay's active prompt. -/
def Pru.expiry (u : Pru) : Option Time :=
  match u.front with
  | .active _ _ e => e
  | .pending _ => none
  | .empty => none

/-- The end time of a sense relay that is closing. -/
def Meu.connectEnds (x : Meu) : Option Time :=
  match x.sense with
  | some y => match y.state with
    | .connecting e => some e
    | .connected => none
    | .disconnecting _ => none
  | none => none

/-- The end time of a sense relay that is opening. -/
def Meu.disconnectEnds (x : Meu) : Option Time :=
  match x.sense with
  | some y => match y.state with
    | .disconnecting e => some e
    | .connecting _ => none
    | .connected => none
  | none => none

/-- The end time of a SETTLE phase. -/
def Meu.settleEnds (x : Meu) : Option Time :=
  match x.inFlight with
  | some y => match y.phase with
    | .settle e => some e
    | .connect => none
    | .sampling => none
  | none => none

/-- A frame between attempts, none of whose attempts has lost the line to a frame still on it (R73, R74). -/
def Net.restarts (n : Net) : Bool :=
  n.portState = .active && !n.lineBusy && (match n.current with
    | some c => !c.onLine && !c.finishing
    | none => false)

/-- The next attempt of a bay's frame starts now (R73, R74): a frame from the unit may be on the line and delay it to its end
(R60). Whether one is, is a free choice (`Config.unitDelays`, notes/assumptions/8.md). -/
def State.restartDue (s : State) (bay : Bay) : Bool :=
  (s.nets.get bay).restarts && !Config.unitDelays s.choices (bayCode (some bay))

/-- A frame between attempts would start its next attempt. -/
def State.awaitsLine (s : State) : Bool := (s.nets.get .a).restarts || (s.nets.get .b).restarts

/-- The timed events of a bay that are due at the present rack time. -/
def State.dueOfBay (s : State) (bay : Bay) : List Instr :=
  let n := s.nets.get bay
  dueIf (reachedAt s.rackTime ((s.bays.get bay).timer.map FixtureTimer.expiry)) (.fixtureTimerExpiry bay) ++
  dueIf (n.portState ≠ .off && n.accruedAt ≠ s.rackTime) (.tokenAccrual bay) ++
  ((n.runtime.filter fun p => reachedAt s.rackTime p.2.nextDue).map fun p => .frameDue bay (BitVec.ofNat 8 p.1)) ++
  dueIf (s.restartDue bay) (.attemptRestart bay) ++
  dueIf (reachedAt s.rackTime (s.prus.get bay).expiry) (.promptTimerExpiry bay)

/-- A master's clear is due for a block. -/
def State.clearDue (s : State) (m : Master) : Bool := reachedAt s.rackTime ((s.access.get m).clear.map Clear.due)

/-- An aging pass at this rack time would remove an entry (R90). -/
def State.agingDue (s : State) : Bool :=
  s.rackTime.toNat % 100 = 0 && s.responses.any fun p => match p.2 with
    | some r => s.aged r
    | none => false

/-- A write of the save in progress has stood 20 ms without an acknowledge (R211). -/
def State.saveOverdue (s : State) : Bool :=
  s.store.state = .saving && (match s.store.save with
    | some x => x.overdue s.rackTime
    | none => false)

/-- Every timed event that is due at the present rack time. -/
def State.dueEvents (s : State) : List Instr :=
  dueIf (s.store.state = .loading && 100 ≤ s.rackTime.toNat) (.endOfLoad .timeLimit) ++
  dueIf s.saveOverdue (.calSaveEnd .timeLimit) ++
  dueIf (s.odc.blinkOn != blinkPhase s.rackTime) .blinkPhaseChange ++
  ((s.routes.filter (Route.ended s.rackTime)).map fun r => .routeTransitionComplete r.source r.bay r.pin) ++
  s.dueOfBay .a ++ s.dueOfBay .b ++
  dueIf s.agingDue .agingPass ++
  dueIf (reachedAt s.rackTime s.meu.holdTimer) .holdTimerExpiry ++
  dueIf (reachedAt s.rackTime s.meu.connectEnds) .senseConnectComplete ++
  dueIf (reachedAt s.rackTime s.meu.disconnectEnds) .senseDisconnectComplete ++
  dueIf (reachedAt s.rackTime s.meu.settleEnds) .settleEnd ++
  dueIf (s.clearDue .bsqA) (.clearBlock .bsqA) ++
  dueIf (s.clearDue .bsqB) (.clearBlock .bsqB) ++
  dueIf (s.clearDue .ssv) (.clearBlock .ssv)

/-- The writes of a save that the calibration store acknowledges in the millisecond that has passed (R211): how many is a
free choice (`Config.storeAcks`, notes/assumptions/41.md). -/
def State.pollStore (s : State) : State :=
  match s.store.save with
  | some x =>
    if s.store.state = .saving ∧ x.written < saveLength then
      { s with
        store   := { s.store with save := some (x.poll (Config.storeAcks s.choices) s.rackTime) }
        choices := s.choices + 1 }
    else s
  | none => s

/-- The next millisecond (R1); start-up settling ends at rack time 3 (R54), and a save in progress goes on (R211). Where a
frame of the unit has delayed an attempt (R60), the next millisecond asks again. -/
def State.nextMs (s : State) : State :=
  let t := s.rackTime + 1
  State.pollStore { s with
    rackTime := t, settling := s.settling && t.toNat < 3, choices := if s.awaitsLine then s.choices + 1 else s.choices }

/-- Take one of the events that are due, chosen by `Config.pick` where there are several (notes/assumptions/2.md). -/
def State.takeDue (l : List Instr) (s : State) : Host.Outcome State Fault Refusal :=
  match l[Config.pick s.choices % l.length]? with
  | some i => exec i { s with choices := s.choices + 1 }
  | none => .next s

/-- The step of the part with no command waiting. -/
def tick (s : State) : Host.Outcome State Fault Refusal :=
  if s.running then
    match s.dueEvents with
    | [] => .next s.nextMs
    | [i] => exec i s
    | i :: j :: l => s.takeDue (i :: j :: l)
  else .next s

end Sys2Proof.Machine
end

