-- ==== Sys2Proof/Machine/Layout.lean ====
section
/-! DEFINITION. The bytes of records and answers (R192, R207), and what SDO carries in a select period (R190). Where R207
gives a response no layout, the bytes are the model's (notes/assumptions/18.md). -/

namespace Sys2Proof.Machine

/-- A field of one byte. -/
def byte (n : Nat) : Byte := BitVec.ofNat 8 n

/-- A field of two bytes. -/
def word16 (n : Nat) : List Byte := bytes16 (BitVec.ofNat 16 n)

/-- A flag as 0 or 1. -/
def bitByte (f : Bool) : Byte := if f then 1 else 0

/-- Status codes (R192). -/
def Status.code : Status → Byte
  | .ok => 0x00
  | .accepted => 0x01
  | .pending => 0x02
  | .busy => 0x03
  | .denied => 0x04
  | .state => 0x05
  | .range => 0x06
  | .full => 0x07
  | .empty => 0x08
  | .preempted => 0x09
  | .unknown => 0x0F

/-- Bay state codes: the order of R4. -/
def BayState.code (st : BayState) : Byte := byte st.rank

/-- Phase codes, 0 for an absent phase. -/
def phaseCode : Option Phase → Byte
  | none => 0
  | some .powerDown => 1
  | some .retract => 2
  | some .unclamp => 3

/-- Bay codes. -/
def bayByte (bay : Bay) : Byte := byte (bayCode (some bay))

/-- Codes of the cause of a UNIT record. -/
def causeCode : Option UnitCause → Byte
  | none => 0
  | some (.safe .unitLost) => 1
  | some (.safe .clampLost) => 2
  | some (.safe .contactLost) => 3
  | some (.safe .interlock) => 4
  | some (.safe .emergency) => 5
  | some (.safe .fixtureTimeout) => 6
  | some .bayReset => 7

/-- Step verdict codes. -/
def StepVerdict.code : StepVerdict → Byte
  | .pass => 0
  | .marginal => 1
  | .fail => 2
  | .error => 3

/-- Unit verdict codes. -/
def UnitVerdict.code : UnitVerdict → Byte
  | .pass => 0
  | .passMarginal => 1
  | .fail => 2
  | .aborted => 3

/-- Step source codes. -/
def StepSource.code : StepSource → Byte
  | .measure => 0
  | .response => 1
  | .prompt => 2
  | .sequencer => 3

/-- Store state codes. -/
def StoreState.code : StoreState → Byte
  | .loading => 0
  | .ready => 1
  | .saving => 2
  | .fault => 3

/-- Master codes, which R207 gives for notices. That the requester of MEU READ (R121) and the *poster* of a prompt (R184, R188)
have the same codes is the model's choice (notes/assumptions/18.md). -/
def masterCode : Master → Byte
  | .bsqA => 1
  | .bsqB => 2
  | .ssv => 3

/-- Sub-detail codes: GRANT 1, COMPLETE 2. -/
def Sub.code : Sub → Byte
  | .none => 0
  | .grant => 1
  | .complete => 2

/-- Direction codes. -/
def Direction.code : Direction → Byte
  | .tx => 0
  | .rx => 1

/-- A weight where a flag is set. -/
def flagBit (f : Bool) (w : Nat) : Nat := if f then w else 0

/-- The two flag bytes of a STEP record. -/
def StepFlags.mask (f : StepFlags) : Nat :=
  flagBit f.clipped 0x0001 + flagBit f.sat 0x0002 + flagBit f.uncal 0x0004 + flagBit f.timeout 0x0008 +
  flagBit f.neverSeen 0x0010 + flagBit f.tooFast 0x0020 + flagBit f.tooSlow 0x0040 + flagBit f.silent 0x0080 +
  flagBit f.mismatch 0x0100

/-- The STEP record, 21 bytes. -/
def StepRec.bytes (r : StepRec) : List Byte :=
  [0x01, bayByte r.bay] ++ bytes16 r.unitSeq ++ word16 r.stepIndex ++ [r.source.code, r.verdict.code,
    byte (flagBit r.value.isSome 0x01 + flagBit r.limit.isSome 0x02 + flagBit r.promptId.isSome 0x04)] ++
  bytes32 (BitVec.ofInt 32 (r.value.getD 0)) ++ [byte (r.limit.getD 0), r.promptId.getD 0] ++
  word16 r.flags.mask ++ bytes32 r.time

/-- Pad a byte list with 0x00 to a length. -/
def padTo (n : Nat) (l : List Byte) : List Byte := l ++ List.replicate (n - l.length) 0

/-- The UNIT record, 46 bytes. -/
def UnitRec.bytes (r : UnitRec) : List Byte :=
  [0x02, bayByte r.bay] ++ bytes16 r.unitSeq ++ [byte r.serial.length] ++ padTo 20 r.serial ++
  bytes16 r.planTag ++ [r.verdict.code] ++ word16 r.counts.pass ++ word16 r.counts.marginal ++
  word16 r.counts.fail ++ word16 r.counts.error ++ bytes32 r.duration ++ [causeCode r.cause,
    byte (flagBit r.uncal 0x01 + flagBit r.unknown 0x02)] ++ bytes32 r.time

/-- A record of the Verdict Log. -/
def LogRec.bytes : LogRec → List Byte
  | .step r => r.bytes
  | .unit r => r.bytes

/-- The monitor record, 17 bytes. -/
def MonRec.bytes (r : MonRec) : List Byte :=
  [r.direction.code, bayByte r.bay] ++ word16 r.ident ++ [byte r.data.length] ++ padTo 8 r.data ++ bytes32 r.time

/-- The ATTENTION READ response. -/
def attentionBytes (e : AttnEntry) (left : Nat) : List Byte :=
  match e with
  | .edge f => [byte f.cause.code, byte (bayCode f.bay), f.sub.code, byte left]
  | .notice n => [2, 0, 0, byte left, masterCode n.sender, n.code, byte n.merged]
  | .log => [9, 0, 0, byte left]
  | .monitor => [10, 0, 0, byte left]

/-! ### Codes of enumerations that R207 does not list

Their values are counted from 0 in the order in which their rule names them, but for the causes of SAFE, which have the codes
of the cause of a UNIT record (DESIGN CHOICE, notes/assumptions/18.md). -/

/-- Codes of the cause of SAFE, those of the cause of a UNIT record; 0 absent. -/
def safeCauseCode (c : Option SafeCause) : Byte := causeCode (c.map UnitCause.safe)

/-- Lamp state codes: the order of R28. -/
def Lamp.code : Lamp → Byte
  | .off => 0
  | .busy => 1
  | .pass => 2
  | .passMarginal => 3
  | .fail => 4
  | .aborted => 5
  | .safe => 6

/-- Source kind codes: the order of R33. -/
def SourceKind.code : SourceKind → Byte
  | .pulse => 0
  | .level => 1

/-- Owner codes: the order of R52. -/
def OwnerReport.code : OwnerReport → Byte
  | .free => 0
  | .a => 1
  | .b => 2
  | .freeing => 3

/-- Source mode codes: the order of R33. -/
def SourceMode.code : SourceMode → Byte
  | .stopped => 0
  | .speed => 1
  | .rpm => 2
  | .frequency => 3
  | .pwm => 4

/-- Range flag codes: the order of R33. -/
def RangeFlag.code : RangeFlag → Byte
  | .none => 0
  | .aboveRange => 1
  | .belowRange => 2

/-- Route state codes: the order of R52. -/
def RouteName.code : RouteName → Byte
  | .closing => 0
  | .closed => 1
  | .opening => 2

/-- Port state codes: the order of R61. -/
def PortState.code : PortState → Byte
  | .off => 0
  | .active => 1
  | .faulted => 2

/-- Transmit class codes: the class itself. -/
def Cls.code : Cls → Byte
  | .c0 => 0
  | .c1 => 1
  | .c2 => 2
  | .c3 => 3

/-- Measurement range codes (R207). -/
def Range.code : Range → Byte
  | .v2 => 0
  | .v20 => 1
  | .il => 2
  | .ih => 3
  | .lum => 4

/-- Claim priority codes: the order of R101. -/
def Priority.code : Priority → Byte
  | .normal => 0
  | .urgent => 1

/-- Measurement phase codes: the order of R111. -/
def PhaseName.code : PhaseName → Byte
  | .connect => 0
  | .settle => 1
  | .sampling => 2

/-- Sense connection state codes: the order of R112. -/
def SenseName.code : SenseName → Byte
  | .connecting => 0
  | .connected => 1
  | .disconnecting => 2

/-- Prompt kind codes (R207). -/
def PromptKind.code : PromptKind → Byte
  | .acknowledge => 0
  | .choice => 1
  | .visual => 2

/-- The *allowed* byte of a key set (R207). -/
def KeySet.byte (k : KeySet) : Byte :=
  Machine.byte (flagBit k.yes 0x01 + flagBit k.no 0x02 + flagBit k.again 0x04)

/-- Answer codes of a prompt (R207). -/
def Reply.code : Reply → Byte
  | .yes => 0
  | .no => 1
  | .again => 2
  | .timeout => 3
  | .cancelled => 4

/-! ### Fields of responses -/

/-- A field of four bytes. -/
def word32 (n : Nat) : List Byte := bytes32 (BitVec.ofNat 32 n)

/-- A signed field of four bytes. -/
def signed32 (n : Int) : List Byte := bytes32 (BitVec.ofInt 32 n)

/-- A field that may be absent: a presence byte, then its `n` bytes, 0x00 when absent (notes/assumptions/18.md). -/
def optional (n : Nat) : Option (List Byte) → List Byte
  | none => 0 :: List.replicate n 0
  | some l => 1 :: l

/-- An echoed operand at its width, most significant byte first (R192). -/
def Echo.bytes (x : Echo) : List Byte :=
  (List.range x.width).map fun k => BitVec.ofInt 8 (x.value / 256 ^ (x.width - 1 - k))

/-- Step counts. -/
def Counts.bytes (c : Counts) : List Byte := word16 c.pass ++ word16 c.marginal ++ word16 c.fail ++ word16 c.error

/-- The Bay Setup record, in the order and at the widths of BAY SETUP WRITE. -/
def Setup.bytes (x : Setup) : List Byte :=
  word16 x.clampTimeout ++ word16 x.contactTimeout ++ word16 x.powerSettle ++ word16 x.powerOffSettle ++
  bytes48 x.reservedPins ++ word16 x.bitRate ++ [byte x.loadLimit] ++ word16 x.bucketDepth ++
  [byte x.w2, byte x.w1, byte x.w0, byte x.retryLimit] ++ word16 x.ageLimit ++ word16 x.holdLimit ++
  word16 x.alertPage ++ [bitByte x.mirrorTx, bitByte x.mirrorRx, bitByte x.marginalFails, bitByte x.unknownFails,
    bitByte x.operatorAbort]

/-- The Bay Context, in the order of R25. An absent serial is the length 0 and 20 bytes 0x00, with no presence byte: the
model's choice (notes/assumptions/18.md). -/
def BayCtx.bytes (c : BayCtx) : List Byte :=
  [c.state.code, phaseCode c.phase, safeCauseCode c.safeCause] ++
  [byte (c.serial.getD []).length] ++ padTo 20 (c.serial.getD []) ++ optional 2 (c.planTag.map bytes16) ++
  bytes16 c.unitSeq ++ optional 4 (c.startTime.map bytes32) ++ [bitByte c.policy.marginalFails,
    bitByte c.policy.unknownFails, bitByte c.policy.operatorAbort] ++ c.counts.bytes ++
  [bitByte c.unknownSeen, bitByte c.uncal] ++ optional 1 (c.unitVerdict.map fun v => [v.code]) ++ [bitByte c.unitOwed]

/-- The levels of a bay's fixture inputs, in the order of R31: 1 for a high line, which is an active one (the coding is the
model's choice, notes/assumptions/18.md). -/
def Inputs.bytes (x : Inputs) : List Byte :=
  [bitByte x.unitPresent, bitByte x.clampClosed, bitByte x.contactMade, bitByte x.interlockOk]

/-- The fixture outputs of a bay: 1 for on (the coding is the model's choice, notes/assumptions/18.md). -/
def Outputs.bytes (x : Outputs) : List Byte := [bitByte x.clamp, bitByte x.contact, bitByte x.dutPower]

/-- The programmed setting of a source: the fields of its kind alone (the form is the model's choice,
notes/assumptions/18.md). -/
def SettingReport.bytes : SettingReport → List Byte
  | .pulse mode period high duty => mode.code :: word32 period ++ word32 high ++ word16 duty
  | .level code => word16 code

/-- A route record. -/
def RouteReport.bytes (r : RouteReport) : List Byte := [bayByte r.bay, byte r.pin.val, r.state.code]

/-- A Frame Table definition, in the order and at the widths of FRAME WRITE; the alive byte and the checksum byte are
0xFF where they are absent. -/
def FrameDef.bytes (d : FrameDef) : List Byte :=
  [bitByte d.valid, d.members] ++ word16 d.ident ++ [byte d.length] ++ d.payload.toList ++ [d.cls] ++ word16 d.period ++
  word16 d.phase ++ [d.gate, (d.alive.getD (0xFF, 0)).1, (d.alive.getD (0xFF, 0)).2, d.checksum.getD 0xFF,
    bitByte d.mirror]

/-- A runtime record, in the order of R56. -/
def Runtime.bytes (x : Runtime) : List Byte :=
  optional 4 (x.nextDue.map bytes32) ++ [bitByte x.queued, byte x.aliveCount, byte x.repeatLeft]

/-- A Response Table entry, in the order of R83: key, kind (0 LEARNED, 1 PINNED), runtime fields, expectation fields. The
last payload, its length and *last_seen*, absent together, have one presence byte, and a LEARNED entry has no bytes of
expectation fields: the model's choice (notes/assumptions/18.md). -/
def Resp.bytes (r : Resp) : List Byte :=
  [bayByte r.bay] ++ word16 r.ident ++ [bitByte r.expectation.isSome] ++
  optional 13 (r.last.map fun l => l.payload.toList ++ [byte l.length] ++ bytes32 l.seen) ++ word16 r.count ++
  optional 4 (r.gaps.map fun g => word32 g.1) ++ optional 4 (r.gaps.map fun g => word32 g.2) ++ [byte r.mismatch] ++
  (match r.expectation with
    | some x => word16 x.gapLow ++ word16 x.gapHigh ++ x.mask.toList ++ x.value.toList ++ [bitByte x.required]
    | .none => [])

/-- A claim state, with the priority of a WAITING one alone: no presence byte and no padding in the other states, which is
the model's choice (notes/assumptions/18.md). -/
def ClaimState.bytes : ClaimState → List Byte
  | .none => [0]
  | .waiting p => [1, p.code]
  | .holding => [2]
  | .revoking => [3]

/-- A claim record: the code of its state and the fields that state has (R101, R121). The fields it has not are left out,
with no presence byte and no padding, so the length follows the state: the model's choice (notes/assumptions/18.md). -/
def ClaimReport.bytes : ClaimReport → List Byte
  | .none => [0]
  | .waiting p t => [1, p.code] ++ bytes32 t
  | .holding p t pending limit => [2, p.code] ++ bytes32 t ++ [bitByte pending] ++ word16 limit
  | .revoking p t pending => [3, p.code] ++ bytes32 t ++ [bitByte pending]

/-- The measurement in flight, in the order of R121. -/
def MeasReport.bytes (x : MeasReport) : List Byte :=
  [masterCode x.requester, bayByte x.bay, x.range.code, byte x.channel, byte x.samples] ++ word16 x.settle ++
  optional 1 (x.limit.map fun l => [byte l]) ++ [x.phase.code, byte x.taken]

/-- The sense connection record; a record that names no pin (notes/assumptions/16.md) has bay 0 and pin 0, which is the
model's choice (notes/assumptions/18.md). -/
def SenseReport.bytes (x : SenseReport) : List Byte :=
  [byte (bayCode (x.target.map Prod.fst)), byte ((x.target.map Prod.snd).getD 0), x.state.code]

/-- The fields that a result's status has, in the order of R116, with the limit index among them: *value* and *flags*
before it, *verdict* and *step_index* after it, *phase* last. The fields that the status has not (*value*, *flags*, *verdict*
and *step_index* of ABORTED, *phase* of DONE) are left out, with no presence byte and no padding, and *flags* is one byte of
0x01 CLIPPED, 0x02 SAT and 0x04 UNCAL, the weights of the STEP record: the model's choices (notes/assumptions/18.md). -/
def ResultStatus.bytes (limit : List Byte) : ResultStatus → List Byte
  | .done value flags verdict stepIndex =>
    signed32 value ++ [byte (flagBit flags.clipped 0x01 + flagBit flags.sat 0x02 + flagBit flags.uncal 0x04)] ++ limit ++
    optional 1 (verdict.map fun v => [v.code]) ++ optional 2 (stepIndex.map word16)
  | .aborted phase => limit ++ [phase.code]

/-- The code of a result's status: DONE 0, ABORTED 1. -/
def ResultStatus.code : ResultStatus → Byte
  | .done _ _ _ _ => 0
  | .aborted _ => 1

/-- A result, in the order of R116. -/
def Result.bytes (r : Result) : List Byte :=
  [r.status.code, bayByte r.bay, r.range.code, byte r.channel, byte r.samples] ++ word16 r.settle ++
  r.status.bytes (optional 1 (r.limit.map fun l => [byte l])) ++ bytes32 r.time

/-- A calibration record, at the widths of CAL WRITE. -/
def CalRec.response (x : CalRec) : List Byte := word32 x.gain ++ signed32 x.offset

/-- A limit record, in the order of R134 at the widths of LIMIT WRITE. -/
def LimitRec.bytes (x : LimitRec) : List Byte :=
  [bitByte x.valid, x.range.code] ++ signed32 x.low ++ signed32 x.high ++ word32 x.guard

/-- A prompt record with its poster, at the widths of PROMPT; 0xFFFF is no page. *poster* has the master code of notices, which
is the model's choice (notes/assumptions/18.md). -/
def Prompt.bytes (p : Prompt) : List Byte :=
  [p.promptId, p.kind.code, p.allowed.byte] ++ word32 p.timeout ++ word16 (p.page.getD 0xFFFF) ++
  [bitByte p.blink, masterCode p.poster]

/-- The front place: EMPTY 0, PENDING 1 or ACTIVE 2, and what it holds (R188), with no bytes for what it does not hold (the
coding is the model's choice, notes/assumptions/18.md). -/
def Front.bytes : Front → List Byte
  | .empty => [0]
  | .pending p => 1 :: p.bytes
  | .active p since expiry => 2 :: p.bytes ++ bytes32 since ++ optional 4 (expiry.map bytes32)

/-- The place a prompt took: ACTIVE 0, PENDING 1, or 2 and its position (R177); the coding is the model's choice
(notes/assumptions/18.md). -/
def PromptPlace.bytes : PromptPlace → List Byte
  | .active => [0]
  | .pending => [1]
  | .waiting position => [2, byte position]

/-- The content of an answer slot, in the order of R184. *poster* has the master code of notices, which is the model's choice
(notes/assumptions/18.md). -/
def AnswerSlot.bytes (x : AnswerSlot) : List Byte :=
  [x.promptId, x.kind.code, masterCode x.poster, x.answer.code] ++ word32 x.elapsed ++
  optional 2 (x.stepIndex.map word16) ++ [byte x.missed]

/-- The response bytes of an answer (R190, R192, R195). R207 lays out those of ATTENTION READ, STATUS READ, LOG POP and
MONITOR POP; the others carry the list of their rule in its order, at the widths of notes/assumptions/18.md. The choices of
that entry that stand here: the byte of EMERGENCY in BAY READ is 1 while EMERGENCY is active, its line low (R31), and 0 while
it is inactive; the reason flags of CHECK RESPONSE (R97) are two bytes with the weights of the STEP record; the effective
guard of LIMIT READ and LIMIT WRITE (R135, R137) has four bytes, as the guard operand of LIMIT WRITE, and that of LIMIT READ
has no bytes where the record is not valid; DISPLAY READ carries its codes with no
count. -/
def Body.bytes : Body → List Byte
  | .none => []
  | .refusedState state phase => [state.code, phaseCode phase]
  | .bay state phase unitSeq => [state.code, phaseCode phase] ++ bytes16 unitSeq
  | .finished state phase unitSeq verdict counts =>
    [state.code, phaseCode phase] ++ bytes16 unitSeq ++ [verdict.code] ++ counts.bytes
  | .abortedUnit state phase unitSeq verdict => [state.code, phaseCode phase] ++ bytes16 unitSeq ++ [verdict.code]
  | .setup x => x.bytes
  | .bayRead ctx inputs emergency out lamp => ctx.bytes ++ inputs.bytes ++ [bitByte emergency] ++ out.bytes ++ [lamp.code]
  | .setting echo shown flag => echo.flatMap Echo.bytes ++ shown.bytes ++ [flag.code]
  | .source kind owner shown parked flag routes =>
    [kind.code, owner.code] ++ shown.bytes ++ [bitByte parked, flag.code, byte routes.length] ++
    routes.flatMap RouteReport.bytes
  | .frameDef d => d.bytes
  | .frameRead d runtimeA runtimeB =>
    d.bytes ++ optional 8 (runtimeA.map Runtime.bytes) ++ optional 8 (runtimeB.map Runtime.bytes)
  | .net portState tokens fails curClass credit current queues =>
    [portState.code] ++ signed32 tokens ++ [byte fails, curClass.code, byte credit] ++
    optional 3 (current.map fun c => [byte c.1, byte c.2.1, bitByte c.2.2]) ++
    queues.flatMap fun q => byte q.1 :: q.2.map byte
  | .response index r => byte index :: r.bytes
  | .judged verdict flags stepIndex count gaps lastSeen mismatch =>
    [verdict.code] ++ word16 flags.mask ++ word16 stepIndex ++ word16 count ++
    optional 4 (gaps.map fun g => word32 g.1) ++ optional 4 (gaps.map fun g => word32 g.2) ++
    optional 4 (lastSeen.map bytes32) ++ [byte mismatch]
  | .monitor left r => byte left :: r.bytes
  | .claim c => c.bytes
  | .measure range channel samples settle => [range.code, byte channel, byte samples] ++ word16 settle
  | .result r => r.bytes
  | .meu claims inFlight sense =>
    claims.bsqA.bytes ++ claims.bsqB.bytes ++ claims.ssv.bytes ++ optional 11 (inFlight.map MeasReport.bytes) ++
    optional 3 (sense.map SenseReport.bytes)
  | .cal of range r => [bayByte of, range.code] ++ r.response
  | .calRead of range r uncal => [bayByte of, range.code] ++ r.response ++ [bitByte uncal]
  | .limit r guard => r.bytes ++ (match guard with
    | some g => word32 g
    | .none => [])
  | .step stepIndex => word16 stepIndex
  | .log left r => byte left :: r.bytes
  | .logSetup threshold count reserved => [byte threshold, byte count, byte reserved]
  | .stats of first count values => [bayByte of, byte first, byte count] ++ values.flatMap word32
  | .cursor c => word16 c
  | .codes l next => l ++ word16 next
  | .blocks n => [byte n]
  | .screen start => bitByte start.isSome :: word16 (start.getD 0)
  | .glyph code rows => code :: rows.toList
  | .prompt timeout place => word32 timeout ++ place.bytes
  | .promptId id => [id]
  | .answer x => x.bytes
  | .promptRead front waiting slotEmpty =>
    front.bytes ++ [byte waiting.length] ++ (waiting.flatMap fun p => [p.1, p.2.1.code, masterCode p.2.2]) ++
    [bitByte slotEmpty]
  | .attention e left => attentionBytes e left
  | .merged n => [byte n]
  | .status time stateA phaseA stateB phaseB stored uncal start records reserved threshold queued drops =>
    bytes32 time ++ [stateA.code, phaseCode phaseA, stateB.code, phaseCode phaseB, stored.code, bitByte uncal,
      bitByte start.isSome] ++ word16 (start.getD 0) ++ [byte records, byte reserved, byte threshold, byte queued] ++
      word16 drops
  | .rack stored uncal stateA stateB => [stored.code, bitByte uncal, stateA.code, stateB.code]

/-! ### The select period (R190, R207) -/

/-- What the part shifts out after the request bytes (R190): status, response length, response bytes. -/
def Answer.bytes (x : Answer) : List Byte := [x.status.code, byte x.body.bytes.length] ++ x.body.bytes

/-- The byte on SDO at a place of a select period whose request has `n` operand bytes and the answer `x` (R190): 0xFF
while the request comes in, then the answer, 0xFF beyond it and where there is none. -/
def sdoByte (n : Nat) (x : Option Answer) (place : Nat) : Byte :=
  if place < 3 + n then 0xFF else (((x.map Answer.bytes).getD []).getD (place - (3 + n)) 0xFF)

/-- The byte on SDO of a port, after the request event of a request with `n` operand bytes. -/
def State.sdo (s : State) (m : Master) (n place : Nat) : Byte := sdoByte n (s.ports.get m).answer place

end Sys2Proof.Machine
end

