-- ==== Sys2Proof/Machine/Outputs.lean ====
section
/-! DEFINITION. The outputs that follow the state: lamp lines, source outputs, relays, acknowledge slots, the panel. The fixture outputs
are fields of the state, ATN is `State.atnLow` of Machine/Flags.lean. -/

namespace Sys2Proof.Machine

/-! ### Lamps (R28) -/

/-- How a lamp line is driven. -/
inductive Line where
  | off | on | blinking
  deriving DecidableEq, Repr

/-- LAMP_RED and LAMP_GREEN of a lamp state. -/
def Lamp.lines : Lamp → Line × Line
  | .off => (.off, .off)
  | .busy => (.on, .on)
  | .pass => (.off, .on)
  | .passMarginal => (.off, .blinking)
  | .fail => (.on, .off)
  | .aborted => (.blinking, .off)
  | .safe => (.blinking, .blinking)

/-- The level of a line in a blink phase (R160). -/
def Line.level (blinkOn : Bool) : Line → Bool
  | .off => false
  | .on => true
  | .blinking => blinkOn

/-- The levels of LAMP_RED and LAMP_GREEN of a bay. -/
def State.lampLevels (s : State) (bay : Bay) : Bool × Bool :=
  let l := (s.bays.get bay).lamp.lines
  (l.1.level s.odc.blinkOn, l.2.level s.odc.blinkOn)

/-! ### Sources and relays (R34, R35, R40, R45) -/

/-- What a source drives: a constant level, a pulse train by period and high time, or a DC level in mV. -/
inductive Drive where
  | low | high
  | pulses (period high : Nat)
  | millivolts (n : Nat)
  deriving DecidableEq, Repr

/-- The output of a source. -/
def State.drive (s : State) (i : Fin 8) : Drive :=
  let x := s.source i
  if isPulse i then
    if x.parked then .low
    else match x.generator with
      | some g => .pulses g.1 g.2
      | none => if 0 < x.highTicks then .high else .low
  else .millivolts (if x.parked then 0 else x.levelCode * 4)

/-- The relay of a source and a pin is commanded closed. -/
def State.relayCommanded (s : State) (i : Fin 8) (bay : Bay) (pin : Fin 48) : Bool :=
  s.routes.any fun r => r.source = i && r.bay = bay && r.pin = pin && r.state.makes

/-- The sense relay of a pin is commanded closed (R112). -/
def State.senseCommanded (s : State) (bay : Bay) (pin : Nat) : Bool :=
  match s.meu.sense with
  | some x => x.target = some (bay, pin) && (match x.state with | .disconnecting _ => false | _ => true)
  | none => false

/-! ### The network port (R60) -/

/-- The bay's port drives the acknowledge slot of a frame from the unit that is without error: while it is in service. -/
def State.acknowledges (s : State) (bay : Bay) : Bool := (s.nets.get bay).portState ≠ .off

/-! ### The panel (R158 to R163) -/

/-- The dots of a glyph (R158): row 0 at the top, column 0 at the left, which is bit 5 of a user glyph's row. -/
def Odc.glyphDot (o : Odc) (code : Byte) (row col : Nat) : Bool :=
  if code.toNat < 0x20 then false
  else if code = 0x20 then false
  else if code.toNat < 0xE0 then Config.romDot code row col
  else ((Table.read ({} : B8) o.glyphs code.toNat).get row).getLsbD (5 - col)

/-- A window blink is in force (R171). -/
def Window.blinks (w : Window) : Bool := w.promptBlink || w.safeBlink

/-- The cell shown at a panel position, rows 0 to 15 and columns 0 to 39 (R162, R163). -/
def State.cellAt (s : State) (row col : Nat) : Nat :=
  match s.odc.screen with
  | some start => (start + 40 * row + col) % 2048
  | none =>
    if row < 8 then (s.windows.a.start + 40 * row + col) % 800
    else 800 + (s.windows.b.start + 40 * (row - 8) + col) % 800

/-- The window blink that applies to a panel row (R159): none under the station screen. -/
def State.rowBlinks (s : State) (row : Nat) : Bool :=
  match s.odc.screen with
  | some _ => false
  | none => if row < 8 then s.windows.a.blinks else s.windows.b.blinks

/-- A dot of the panel, composed in the order of R159. -/
def State.dotAt (s : State) (row col dotRow dotCol : Nat) : Bool :=
  let cell := s.cellAt row col
  let x := s.odc.attr cell
  let d1 := s.odc.glyphDot (s.odc.code cell) dotRow dotCol
  let d2 := d1 || (x.underline && dotRow = 7)
  let d3 := d2 != x.inverse
  let d4 := d3 && !(x.blink && !s.odc.blinkOn)
  d4 != (s.rowBlinks row && !s.odc.blinkOn)

end Sys2Proof.Machine
end

