-- ==== Sys2Proof/Safety.lean ====
section
/-! DEFINITION. The terms statements about the part use: who may be admitted, what a request's row of the code table
is, what a bay movement and a teardown leave, and the laws every state of a run satisfies. They are written from the
rules, apart from the meanings. -/

namespace Sys2Proof.Machine

/-! ### Requests -/

/-- A request reaches its owner's rule (R194, R206): the part runs, the port listens, the store is not LOADING, the
sender may make the request, and a tag that is read names a bay. -/
def Admitted (r : Req) (who : Sender) (tagged : Bool) (s : State) : Prop :=
  s.running = true ∧ (s.ports.get r.port).held = false ∧ s.store.state ≠ .loading ∧
  (who = .station → r.port = .ssv) ∧ (who = .bayPorts → r.port ≠ .ssv) ∧
  (tagged = true → r.port = .ssv → r.tag = 1 ∨ r.tag = 2)

/-- The row of a request in the code table (R197): from whom, the operand lengths that fit, whether the tag names a
bay. -/
structure Row where
  req    : Req
  sender : Sender
  fits   : Prop
  tagged : Prop

/-- A row with one operand length. -/
def Row.fixed (sender : Sender) (tagged : Prop) (n : Nat) (r : Req) : Row := ⟨r, sender, r.len.toNat = n, tagged⟩

/-- A command that is taken during the store load (R194). -/
def takenDuringLoad : Instr → Prop
  | .statusRead _ => True
  | .attentionRead _ => True
  | _ => False

/-- The code table of R197. -/
def requestRow : Instr → Option Row
  | .statusRead r => some (.fixed .anyPort False 0 r)
  | .attentionRead r => some (.fixed .anyPort False 0 r)
  | .noticePost r _ _ => some (.fixed .anyPort False 2 r)
  | .clamp r => some (.fixed .anyPort True 0 r)
  | .contact r => some (.fixed .anyPort True 0 r)
  | .power r => some (.fixed .anyPort True 0 r)
  | .start r o =>
    some ⟨r, .anyPort, r.len.toNat = 4 + o.serialLen.toNat ∧ o.serial.length = o.serialLen.toNat, True⟩
  | .finish r => some (.fixed .anyPort True 0 r)
  | .unload r => some (.fixed .anyPort True 0 r)
  | .abort r => some (.fixed .anyPort True 0 r)
  | .release r => some (.fixed .anyPort True 0 r)
  | .bayReset r => some (.fixed .anyPort True 0 r)
  | .baySetupWrite r _ => some (.fixed .station True 34 r)
  | .baySetupRead r => some (.fixed .anyPort True 0 r)
  | .bayRead r => some (.fixed .anyPort True 0 r)
  | .sourceClaim r _ => some (.fixed .anyPort True 1 r)
  | .sourceFree r _ => some (.fixed .anyPort True 1 r)
  | .setSpeed r _ _ _ => some (.fixed .anyPort True 5 r)
  | .setRpm r _ _ _ => some (.fixed .anyPort True 4 r)
  | .setFrequency r _ _ => some (.fixed .anyPort True 5 r)
  | .setDuty r _ _ => some (.fixed .anyPort True 3 r)
  | .setLevel r _ _ => some (.fixed .anyPort True 5 r)
  | .sourceRead r _ => some (.fixed .anyPort False 1 r)
  | .routeClose r _ _ => some (.fixed .anyPort True 2 r)
  | .routeOpen r _ _ => some (.fixed .anyPort True 2 r)
  | .frameWrite r _ _ => some (.fixed .station False 24 r)
  | .frameRead r _ => some (.fixed .station False 1 r)
  | .setPayload r _ _ bytes =>
    some ⟨r, .anyPort, 3 ≤ r.len.toNat ∧ r.len.toNat ≤ 10 ∧ r.len.toNat = 2 + bytes.length, False⟩
  | .send r _ _ => some (.fixed .anyPort True 2 r)
  | .netResume r => some (.fixed .anyPort True 0 r)
  | .netRead r => some (.fixed .anyPort True 0 r)
  | .expect r _ => some (.fixed .anyPort True 23 r)
  | .unexpect r _ => some (.fixed .anyPort True 2 r)
  | .responseRead r selector _ => some (.fixed .anyPort (selector = 1) 3 r)
  | .checkResponse r _ _ => some (.fixed .anyPort True 3 r)
  | .monitorPop r => some (.fixed .station False 0 r)
  | .meuClaim r => some (.fixed .anyPort False 0 r)
  | .meuRelease r => some (.fixed .anyPort False 0 r)
  | .measure r _ => some (.fixed .anyPort True 7 r)
  | .resultRead r => some (.fixed .anyPort False 0 r)
  | .meuRead r => some (.fixed .anyPort False 0 r)
  | .calWrite r _ _ _ => some (.fixed .station True 9 r)
  | .calRead r _ => some (.fixed .station True 1 r)
  | .limitWrite r _ _ => some (.fixed .station False 15 r)
  | .limitRead r _ => some (.fixed .station False 1 r)
  | .noteStep r _ value =>
    some ⟨r, .bayPorts, (r.len.toNat = 1 ∧ value = none) ∨ (r.len.toNat = 5 ∧ value ≠ none), False⟩
  | .logPop r => some (.fixed .station False 0 r)
  | .logSetup r _ => some (.fixed .station False 1 r)
  | .statsRead r _ _ _ => some (.fixed .station True 3 r)
  | .setCursor r _ => some (.fixed .anyPort False 2 r)
  | .displayWrite r codes =>
    some ⟨r, .anyPort, 1 ≤ r.len.toNat ∧ r.len.toNat ≤ 64 ∧ r.len.toNat = codes.length, False⟩
  | .displayRead r _ => some (.fixed .anyPort False 1 r)
  | .attrSet r _ _ => some (.fixed .anyPort False 2 r)
  | .attrClear r _ _ => some (.fixed .anyPort False 2 r)
  | .clearArea r _ => some (.fixed .anyPort False 2 r)
  | .setWindow r _ => some (.fixed .anyPort True 2 r)
  | .stationScreen r _ _ => some (.fixed .station False 3 r)
  | .glyphLoad r _ _ => some (.fixed .station False 9 r)
  | .prompt r _ => some (.fixed .anyPort True 10 r)
  | .promptCancel r id =>
    some ⟨r, .anyPort, (r.len.toNat = 0 ∧ id = none) ∨ (r.len.toNat = 1 ∧ id ≠ none), True⟩
  | .answerRead r => some (.fixed .anyPort True 0 r)
  | .promptRead r => some (.fixed .anyPort True 0 r)
  | .calSave r => some (.fixed .station False 0 r)
  | .rackReset r => some (.fixed .station False 0 r)
  | _ => none

/-- The master codes of notices (R207). -/
def noticeCode : Master → Byte
  | .bsqA => 1
  | .bsqB => 2
  | .ssv  => 3

/-- `st` answers the first check of a table that fails. -/
def FirstRefusal : List (Prop × Status) → Status → Prop
  | [], _ => False
  | (check, answer) :: l, st => (¬ check ∧ st = answer) ∨ (check ∧ FirstRefusal l st)

/-- Every check of a table holds. -/
def AllPass (l : List (Prop × Status)) : Prop := ∀ c ∈ l, c.1

/-! ### What events leave -/

/-- The attention sets of `t` are those of `s` with the edge entries that `p` names raised; the notices are kept
(R199). -/
def Raised (p : Master → Edge → Prop) (s t : State) : Prop :=
  ∀ m, (t.attn.get m).notices = (s.attn.get m).notices ∧
    ∀ e, e ∈ (t.attn.get m).edges ↔ e ∈ (s.attn.get m).edges ∨ p m e

/-- BAY_STATE of a bay goes to its sequencer and to the station, less the master that asked (R8). -/
def BayStateTold (requester : Option Master) (bay : Bay) (m : Master) (e : Edge) : Prop :=
  e = ⟨.bayState, some bay, .none⟩ ∧ (m = sequencer bay ∨ m = .ssv) ∧ some m ≠ requester

/-- The law of R34 for a source numbered `i` that reads `x`: when it is parked. -/
def ParkedBy (t : State) (i : Fin 8) (x : Source) : Prop :=
  x.owner = none ∨
  (∃ bay, x.owner = some bay ∧ t.bayState bay ≠ .powering ∧ t.bayState bay ≠ .powered ∧ t.bayState bay ≠ .testing) ∨
  (∃ r ∈ t.routes, r.source = i ∧ r.state ≠ .closed)

/-- A source is as in `s` but for *parked*, which R34 gives in `t`, and the period a change of it abandons or starts
(R35). -/
def ReparkedAt (i : Fin 8) (s t : State) : Prop :=
  let x := s.source i
  (ParkedBy t i x → t.source i = { x with parked := true, generator := none }) ∧
  (¬ ParkedBy t i x → x.parked = false → t.source i = x) ∧
  (¬ ParkedBy t i x → x.parked = true → t.source i = { x with
    parked := false
    generator := if 0 < x.highTicks ∧ x.highTicks < x.periodTicks then some (x.periodTicks, x.highTicks) else none })

/-- Every source is evaluated again. -/
def Reparked (s t : State) : Prop := ∀ i, ReparkedAt i s t

/-- The period a setting runs, absent where it holds the output (R45). -/
def running (x : Source) : Option (Nat × Nat) :=
  if 0 < x.highTicks ∧ x.highTicks < x.periodTicks then some (x.periodTicks, x.highTicks) else none

/-- A new setting `y` of a source that reads `x` (R45): it reaches the output at once while an unparked source holds,
and later otherwise. -/
def taken (x y : Source) : Source :=
  { y with parked := x.parked, generator := if x.parked = false ∧ x.generator = none then running y else x.generator }

/-- The quotient rounded, halves up (R2). -/
def nearest (n d : Nat) : Nat := (2 * n + d) / (2 * d)

/-- The nearer bound of a scalar outside its range. -/
def bounded (lo hi n : Nat) : Nat := max lo (min hi n)

/-- A computed period in its limits (R49): a source stopped by an operand of 0 or by a period above 4 000 000 ticks, or
running `mode` with period `t` and high time `high`. -/
def periodSet (mode : SourceMode) (zero : Prop) [Decidable zero] (flag : RangeFlag) (t high : Nat) (x : Source) :
    Source :=
  if zero then { x with mode := .stopped, periodTicks := 0, highTicks := 0, rangeFlag := flag }
  else if 4000000 < t then { x with mode := .stopped, periodTicks := 0, highTicks := 0, rangeFlag := .belowRange }
  else { x with mode := mode, periodTicks := t, highTicks := high, rangeFlag := flag }

/-- The programmed setting an answer shows (R44, R52): that of a pulse source S0 to S3 or of a level source S4 to S7. -/
def settingShown (i : Fin 8) (x : Source) : SettingReport :=
  if i.val < 4 then .pulse x.mode x.periodTicks x.highTicks x.duty else .level x.levelCode

/-- The answer of a setting (R44): the source in one byte, then the operands at their widths. -/
def settingAnswer (i : Fin 8) (echo : List Echo) (y : Source) : Answer :=
  ⟨.ok, .setting (⟨1, i.val⟩ :: echo) (settingShown i y) y.rangeFlag⟩

/-- A bay changes state with no other block torn down: its controller becomes `x`, its sources are evaluated again,
BAY_STATE is raised; all else is kept. -/
def BayMove (requester : Option Master) (bay : Bay) (x : BayCtl) (s t : State) : Prop :=
  t = { s with bays := s.bays.set bay x, sources := t.sources, attn := t.attn } ∧
  Reparked s t ∧ Raised (BayStateTold requester bay) s t

/-- The answer a cancelled front prompt leaves in the slot (R184 to R186). -/
def cancelledSlot (p : Prompt) (ms : Nat) (old : Option AnswerSlot) : AnswerSlot where
  promptId  := p.promptId
  kind      := p.kind
  poster    := p.poster
  answer    := .cancelled
  elapsed   := ms
  stepIndex := none
  missed    := match old with
    | none => 0
    | some x => bumpTo 255 x.missed

/-- The prompts at the head of a list that step admission refuses for good (R180): the VISUAL ones, while the bay has
no further step, whether or not the log has a place (notes/assumptions/12.md). -/
def refusedFirst (bay : Bay) (v : Vlg) (l : List Prompt) : List Prompt :=
  if v.stepsWritten.get bay + v.stepsReserved bay < 65535 then [] else l.takeWhile fun p => p.kind = .visual

/-- What filling the front place of a bay from a list of prompts does (R178 to R180, R184). The VISUAL prompts that step
admission refuses are ended CANCELLED with elapsed time 0, each with PROMPT to its poster. Of the rest, with nothing left
the place is EMPTY, an ACKNOWLEDGE or CHOICE prompt is activated, and a VISUAL one is activated with its reservation, or
PENDING where the log is full. -/
def Promoted (bay : Bay) (l : List Prompt) (s t : State) : Prop :=
  let v := s.vlg
  let w := s.windows.get bay
  let u := t.prus.get bay
  let refused := refusedFirst bay v l
  let rest := l.drop refused.length
  let activated := fun (p : Prompt) (more : List Prompt) =>
    u.front = .active p s.rackTime (if p.timeout = 0 then none else some (s.rackTime + BitVec.ofNat 32 p.timeout)) ∧
    u.waiting = more ∧ t.windows.get bay = { w with start := p.page.getD w.start, promptBlink := p.blink }
  t = { s with vlg := t.vlg, prus := t.prus, windows := t.windows, attn := t.attn } ∧
  t.prus.get (otherBay bay) = s.prus.get (otherBay bay) ∧ t.windows.get (otherBay bay) = s.windows.get (otherBay bay) ∧
  u.slot = refused.foldl (fun old p => some (cancelledSlot p 0 old)) (s.prus.get bay).slot ∧
  Raised (fun m e => ∃ p ∈ refused, m = p.poster ∧ e = ⟨.prompt, some bay, .none⟩) s t ∧
  (rest = [] → u.front = .empty ∧ u.waiting = [] ∧ t.windows.get bay = w ∧ t.vlg = v) ∧
  ∀ p more, rest = p :: more →
    (p.kind ≠ .visual → activated p more ∧ t.vlg = v) ∧
    (p.kind = .visual →
      (v.log.length + v.reservations.length < 128 → activated p more ∧
        t.vlg = { v with reservations := v.reservations ++ [.prompt bay] }) ∧
      (128 ≤ v.log.length + v.reservations.length →
        u.front = .pending p ∧ u.waiting = more ∧ t.windows.get bay = w ∧ t.vlg = v))

/-- A freed place reaches a bay (R145, R180): a PENDING front asks again, any other is left alone. -/
def AsksAgain (bay : Bay) (s t : State) : Prop :=
  (∀ p, (s.prus.get bay).front = .pending p → Promoted bay (p :: (s.prus.get bay).waiting) s t) ∧
  ((∀ p, (s.prus.get bay).front ≠ .pending p) → t = s)

/-- A freed place is handed to both bays (R145). Where both fronts are PENDING, which asks first is the model's free
choice (notes/assumptions/10.md, 32.md), and so is that the ask comes inside the event that frees the place (45.md). -/
def HandedOver (s t : State) : Prop :=
  ((∀ bay, ∃ p, (s.prus.get bay).front = .pending p) → ∃ (first : Bay) (u : State),
    AsksAgain first { s with choices := s.choices + 1 } u ∧ AsksAgain (otherBay first) u t) ∧
  ((∃ bay, ∀ p, (s.prus.get bay).front ≠ .pending p) → ∃ u : State, AsksAgain .a s u ∧ AsksAgain .b u t)

/-- The bay's claims have ended: its sources are FREE or *freeing*, those of the other bay keep their owner (R39). -/
def ClaimsEnded (bay : Bay) (s t : State) : Prop :=
  ∀ i, ((s.source i).owner = some bay → (t.source i).owner = none ∨ (t.source i).freeing = true) ∧
    ((s.source i).owner ≠ some bay → (t.source i).owner = (s.source i).owner)

/-- Every route of the bay that is CLOSED or CLOSING is OPENING for 3 ms, the others are kept (R43). -/
def RoutesOpened (bay : Bay) (s t : State) : Prop :=
  t.routes = s.routes.map fun r => if r.bay = bay ∧ (∀ e, r.state ≠ .opening e) then
    { r with state := .opening (s.rackTime + 3) } else r

/-- The bay's sources have routes to its own pins alone, as the law of R40 has it. -/
def OwnRoutes (bay : Bay) (s : State) : Prop := ∀ i, (s.source i).owner = some bay → ∀ q ∈ s.routesOf i, q.bay = bay

/-- The measurement in flight `x` has been aborted (R116, R118): its slot says so with the phase it was in, and RESULT
COMPLETE goes to its requester. -/
def MeasurementAborted (x : Measurement) (s t : State) : Prop :=
  t.meu.slots.get x.requester = some
    { bay := x.bay, range := x.range, channel := x.channel, samples := x.samples, settle := x.settle
      limit := x.limit
      status := .aborted (match x.phase with
        | .connect => .connect
        | .settle _ => .settle
        | .sampling => .sampling)
      time := s.rackTime } ∧
  ⟨.result, some x.bay, .complete⟩ ∈ (t.attn.get x.requester).edges

/-- No measurement for the bay by the station is in flight, and one that was has been aborted (R119, R120). -/
def StationAborted (bay : Bay) (s t : State) : Prop :=
  (∀ x, t.meu.inFlight = some x → s.meu.inFlight = some x ∧ ¬ (x.requester = .ssv ∧ x.bay = bay)) ∧
  (∀ x, s.meu.inFlight = some x → x.requester = .ssv → x.bay = bay → MeasurementAborted x s t)

/-- The learned entries of the bay are gone, every other entry is kept (R91). -/
def Unlearned (bay : Bay) (s t : State) : Prop :=
  ∀ i, t.respAt i = match s.respAt i with
    | some r => if r.bay = bay ∧ r.expectation = none then none else some r
    | none => none

/-- Nothing in the attention sets has been taken away: the notices stand, and so does every edge entry. -/
def NothingTaken (s t : State) : Prop :=
  ∀ m, (t.attn.get m).notices = (s.attn.get m).notices ∧ ∀ e ∈ (s.attn.get m).edges, e ∈ (t.attn.get m).edges

/-- A bay's port goes out of service (R79): a frame on the line finishes, a frame between attempts is dropped with its
alive count advanced and TX_DROPS counting it, and all else but the queues, *tokens* and the runtime records is kept. What
the model's flag *lineBusy* then reads is left open here. -/
def PortOff (bay : Bay) (s t : State) : Prop :=
  let n := s.nets.get bay
  let m := t.nets.get bay
  let dropped := fun i : Nat => ∃ c, n.current = some c ∧ c.onLine = false ∧ c.entry = i
  let cleared := fun x : Runtime => { x with nextDue := none, queued := false, repeatLeft := 0 }
  m = { n with
    portState := .off, tokens := 0, queues := {}, lineBusy := m.lineBusy, runtime := m.runtime
    current := n.current.bind fun c => if c.onLine then some { c with finishing := true } else none } ∧
  (∀ i, (dropped i → m.rt i = { cleared (n.rt i) with aliveCount := ((n.rt i).aliveCount + 1) % 16 }) ∧
    (¬ dropped i → m.rt i = cleared (n.rt i))) ∧
  ((∃ i, dropped i) → t.stat bay .txDrops = bumpTo 4294967295 (s.stat bay .txDrops)) ∧
  ((¬ ∃ i, dropped i) → t.stat bay .txDrops = s.stat bay .txDrops) ∧
  t.nets.get (otherBay bay) = s.nets.get (otherBay bay)

/-- The statistics of an event that takes a bay out of its state (R142, R153, R154): UNITS and one of PASSES, FAILS and
ABORTS for a unit that ends with a verdict, TX_DROPS for a frame between attempts as the bay leaves POWERED or TESTING,
SAFE_ENTRIES for an entry to SAFE; each goes up by one, to 2^32 - 1 at most, and no other counter of either bay moves. -/
def Counted (bay : Bay) (ended : Option UnitVerdict) (entersSafe : Prop) (s t : State) : Prop :=
  let moves := fun c : Stat => match c with
    | .units => ended ≠ none
    | .passes => ended = some .pass ∨ ended = some .passMarginal
    | .fails => ended = some .fail
    | .aborts => ended = some .aborted
    | .txDrops => (s.bayState bay = .powered ∨ s.bayState bay = .testing) ∧
        ∃ f, (s.nets.get bay).current = some f ∧ f.onLine = false
    | .safeEntries => entersSafe
    | _ => False
  ∀ y c, (y = bay ∧ moves c → t.stat y c = bumpTo 4294967295 (s.stat y c)) ∧
    (¬ (y = bay ∧ moves c) → t.stat y c = s.stat y c)

/-- What a bay's teardown leaves in the blocks that hold state for the bay, from POWERED or TESTING (R29): its routes
OPENING (R43), its port OFF (R79), its learned responses gone (R91), its claim and the measurements for it ended
(R119), its prompts ended (R186). -/
def TornDown (bay : Bay) (s t : State) : Prop :=
  RoutesOpened bay s t ∧ PortOff bay s t ∧ Unlearned bay s t ∧
  t.claim (sequencer bay) = .none ∧
  (∀ x, t.meu.inFlight = some x → s.meu.inFlight = some x ∧ x.requester ≠ sequencer bay ∧
    ¬ (x.requester = .ssv ∧ x.bay = bay)) ∧
  (∀ x, s.meu.inFlight = some x → x.requester = sequencer bay ∨ (x.requester = .ssv ∧ x.bay = bay) →
    MeasurementAborted x s t) ∧
  (t.prus.get bay).front = .empty ∧ (t.prus.get bay).waiting = [] ∧
  ((s.prus.get bay).front = .empty → (t.prus.get bay).slot = (s.prus.get bay).slot) ∧
  (∀ p, (s.prus.get bay).front = .pending p →
    (t.prus.get bay).slot = some (cancelledSlot p 0 (s.prus.get bay).slot) ∧
    ⟨.prompt, some bay, .none⟩ ∈ (t.attn.get p.poster).edges) ∧
  (∀ p since e, (s.prus.get bay).front = .active p since e →
    (t.prus.get bay).slot = some (cancelledSlot p (s.rackTime - since).toNat (s.prus.get bay).slot) ∧
    ⟨.prompt, some bay, .none⟩ ∈ (t.attn.get p.poster).edges) ∧
  ((∀ p, (s.prus.get (otherBay bay)).front ≠ .pending p) →
    t.prus.get (otherBay bay) = s.prus.get (otherBay bay) ∧
    t.windows.get (otherBay bay) = s.windows.get (otherBay bay)) ∧
  t.bays.get (otherBay bay) = s.bays.get (otherBay bay)

/-- The blocks a bay event of R29 reaches may change; everything else is kept. -/
def BayEventFrame (s t : State) : Prop :=
  t = { s with
    bays := t.bays, sources := t.sources, routes := t.routes, nets := t.nets, responses := t.responses
    meu := t.meu, vlg := t.vlg, stats := t.stats, windows := t.windows, prus := t.prus, attn := t.attn }

/-- BAY_STATE of the bay stands where it stood, and where R8 has it told when the state has changed. -/
def BayStateRaised (requester : Option Master) (bay : Bay) (s t : State) : Prop :=
  ∀ m, ⟨.bayState, some bay, .none⟩ ∈ (t.attn.get m).edges ↔
    ⟨.bayState, some bay, .none⟩ ∈ (s.attn.get m).edges ∨
    (t.bayState bay ≠ s.bayState bay ∧ BayStateTold requester bay m ⟨.bayState, some bay, .none⟩)

/-- How an entry to CLOSING ends in its own event (R5, R6, R16): waiting in a phase with its timer, in the open fixture,
or by a feedback wait of duration 0. -/
inductive ClosingEnd where
  | waits (phase : Phase) (purpose : TimerPurpose) (ms : Nat)
  | opens
  | timedOut (phase : Phase)

/-- CLOSING from UNCLAMP. -/
def unclampEnd (i : Inputs) (p : Setup) : ClosingEnd :=
  if i.clampClosed = false then .opens
  else if p.clampTimeout = 0 then .timedOut .unclamp else .waits .unclamp .clampRelease p.clampTimeout

/-- CLOSING from RETRACT. -/
def retractEnd (i : Inputs) (p : Setup) : ClosingEnd :=
  if i.contactMade = false then unclampEnd i p
  else if p.contactTimeout = 0 then .timedOut .retract else .waits .retract .contactRelease p.contactTimeout

/-- CLOSING from a phase. -/
def closingEnd (i : Inputs) (p : Setup) : Phase → ClosingEnd
  | .powerDown => if p.powerOffSettle = 0 then retractEnd i p else .waits .powerDown .powerOffSettle p.powerOffSettle
  | .retract => retractEnd i p
  | .unclamp => unclampEnd i p

/-- The outputs of a phase (R4). -/
def phaseOutputs : Phase → Outputs
  | .powerDown => ⟨true, true, false⟩
  | .retract => ⟨true, false, false⟩
  | .unclamp => ⟨false, false, false⟩

/-- The Bay Controller that an entry to CLOSING leaves of `x`, which has the unit verdict and lamp of that entry (R5, R16,
R17, R21). -/
def closedBay (now : Time) (i : Inputs) (x : BayCtl) : ClosingEnd → BayCtl
  | .waits phase purpose ms =>
    { x with
      ctx := { x.ctx with state := .closing, phase := some phase }, out := phaseOutputs phase
      timer := some ⟨now + BitVec.ofNat 32 ms, purpose⟩ }
  | .opens =>
    if i.unitPresent then
      { x with ctx := { x.ctx with state := .loaded, phase := none }, out := ⟨false, false, false⟩, timer := none }
    else
      { ctx := { x.ctx with state := .vacant, phase := none, unitVerdict := none }
        out := ⟨false, false, false⟩, lamp := .off, timer := none }
  | .timedOut phase =>
    { x with
      ctx := { x.ctx with state := .safe, phase := none, safeCause := some .fixtureTimeout }
      out := { phaseOutputs phase with contact := false }, lamp := .safe, timer := none }

/-- The status of a bay request that leaves the bay in a state (R7). -/
def statusOf (st : BayState) : Status :=
  if st = .clamping ∨ st = .contacting ∨ st = .powering ∨ st = .closing then .accepted else .ok

/-- SAFE of the bay shows in its window and goes to both its masters, and SAFE_ENTRIES counts it (R21, R174). -/
def AlertShown (bay : Bay) (s t : State) : Prop :=
  (∀ m, m = sequencer bay ∨ m = .ssv → ⟨.safe, some bay, .none⟩ ∈ (t.attn.get m).edges) ∧
  t.stat bay .safeEntries = bumpTo 4294967295 (s.stat bay .safeEntries) ∧
  (t.windows.get bay).savedStart = some (s.windows.get bay).start ∧
  (t.windows.get bay).start = (s.setups.get bay).alertPage ∧ (t.windows.get bay).safeBlink = true

/-- What an entry to CLOSING at a phase leaves (R8, R16, R29, R34, R39, R43, R154): the bay's controller, from the
controller `x` with the verdict and lamp of that entry; the statistics of the unit that ends; its sources parked, its routes OPENING, its learned responses gone, its prompts
ended; its claims ended where it reaches VACANT; the alert where it reaches SAFE. -/
def ClosingEntered (requester : Option Master) (bay : Bay) (phase : Phase) (x : BayCtl) (s t : State) : Prop :=
  BayEventFrame s t ∧
  t.bays.get bay = closedBay s.rackTime (s.inputs.get bay) x
    (closingEnd (s.inputs.get bay) (s.setups.get bay) phase) ∧
  t.bays.get (otherBay bay) = s.bays.get (otherBay bay) ∧
  (t.bayState bay = .vacant → ClaimsEnded bay s t) ∧
  (t.bayState bay ≠ .vacant → RoutesOpened bay s t) ∧ (OwnRoutes bay s → RoutesOpened bay s t) ∧
  (∀ i, (s.source i).owner = some bay → (t.source i).parked = true) ∧
  Unlearned bay s t ∧ (t.prus.get bay).front = .empty ∧ (t.prus.get bay).waiting = [] ∧
  (t.bayState bay = .safe → AlertShown bay s t) ∧
  (t.bayState bay ≠ .safe → t.stat bay .safeEntries = s.stat bay .safeEntries ∧
    (t.windows.get bay).start = (s.windows.get bay).start ∧
    (t.windows.get bay).savedStart = (s.windows.get bay).savedStart ∧
    (t.windows.get bay).safeBlink = (s.windows.get bay).safeBlink) ∧
  Counted bay (if s.bayState bay = .testing then x.ctx.unitVerdict else none) (t.bayState bay = .safe) s t ∧
  BayStateRaised requester bay s t ∧ NothingTaken s t

/-- What entry to POWERED makes of a bay's part `n` of the Network Stimulus Engine (R62): the port in service, the
alive counts 0, the WAKE entries scheduled. That *tokens* accrue next in the following millisecond, and that the line
counts as idle, are the model's (notes/assumptions/35.md and 8.md). -/
def InService (s : State) (bay : Bay) (n m : Net) : Prop :=
  m = { n with
    portState := .active, bitRate := (s.setups.get bay).bitRate, tokens := (s.setups.get bay).bucketDepth, fails := 0
    curClass := .c2, credit := (s.setups.get bay).w2, lineBusy := false, accruedAt := s.rackTime
    current := n.current.map (fun c => { c with stale := true }), runtime := m.runtime } ∧
  ∀ i, m.rt i = { n.rt i with
    aliveCount := if (s.frame i).valid ∧ (s.frame i).hasMember bay then 0 else (n.rt i).aliveCount
    nextDue := if (s.frame i).valid ∧ (s.frame i).hasMember bay ∧ (s.frame i).gate = 0 ∧ 0 < (s.frame i).period then
      some (s.rackTime + BitVec.ofNat 32 (s.frame i).phase) else (n.rt i).nextDue }

/-- What entry to SAFE with a cause does (R21, R29, R174): outputs, lamp, cause, the UNIT record of a running unit,
SAFE and BAY_STATE to both masters, SAFE_ENTRIES with UNITS and ABORTS of the unit, the alert page; the bay's routes
OPENING, its learned responses gone, its prompts ended, a station measurement of it aborted (R43, R91, R120, R186), and
the teardown from POWERED or TESTING. -/
def SafeEntered (requester : Option Master) (bay : Bay) (cause : SafeCause) (s t : State) : Prop :=
  let x := s.bays.get bay
  BayEventFrame s t ∧
  t.bays.get bay = { x with
    ctx := { x.ctx with
      state := .safe, phase := none, safeCause := some cause
      unitVerdict := if x.ctx.state = .testing then some .aborted else x.ctx.unitVerdict
      unitOwed := if x.ctx.state = .testing then false else x.ctx.unitOwed }
    out := ⟨x.out.clamp, false, false⟩, lamp := .safe, timer := none } ∧
  t.bays.get (otherBay bay) = s.bays.get (otherBay bay) ∧
  t.vlg.log = s.vlg.log ++ (if x.ctx.state = .testing then
    [.unit { bay := bay, unitSeq := x.ctx.unitSeq, serial := x.ctx.serial.getD [], planTag := x.ctx.planTag.getD 0
             verdict := .aborted, counts := x.ctx.counts, duration := s.rackTime - x.ctx.startTime.getD s.rackTime
             cause := some (.safe cause), uncal := x.ctx.uncal, unknown := x.ctx.unknownSeen, time := s.rackTime }]
    else []) ∧
  AlertShown bay s t ∧ BayStateRaised requester bay s t ∧ NothingTaken s t ∧
  Counted bay (if x.ctx.state = .testing then some .aborted else none) True s t ∧
  (∀ i, (s.source i).owner = some bay → (t.source i).parked = true ∧ (t.source i).owner = some bay ∧
    (t.source i).periodTicks = (s.source i).periodTicks ∧ (t.source i).highTicks = (s.source i).highTicks ∧
    (t.source i).levelCode = (s.source i).levelCode) ∧
  RoutesOpened bay s t ∧ Unlearned bay s t ∧
  (t.prus.get bay).front = .empty ∧ (t.prus.get bay).waiting = [] ∧ StationAborted bay s t ∧
  (x.ctx.state = .powered ∨ x.ctx.state = .testing → TornDown bay s t)

/-! ### The grant (R101 to R107) -/

/-- The hold limit of a requester (R102). -/
def State.limitOf (s : State) : Master → Nat
  | .bsqA => (s.setups.get .a).holdLimit
  | .bsqB => (s.setups.get .b).holdLimit
  | .ssv => 250

/-- The requester whose turn it is in the order of R104, the first URGENT waiter or the first of all; none where no one
waits. -/
def NextWaiter (x : Meu) : Option Master → Prop
  | none => x.waiters = []
  | some w => ∃ before after_, x.waiters = before ++ w :: after_ ∧ w ∉ before ∧
    ((x.claims.get w).urgent = true ∧ (∀ k ∈ before, (x.claims.get k).urgent = false) ∨
      before = [] ∧ ∀ k ∈ x.waiters, (x.claims.get k).urgent = false)

/-- The Measurement Unit with the grant given to the next waiter, if there is one (R102, R104). -/
def granted (now : Time) (limit : Master → Nat) (next : Option Master) (x : Meu) : Meu :=
  match next with
  | none => x
  | some w => { x with
      claims := x.claims.set w (.holding (x.claims.get w).priority now (limit w) false)
      waiters := x.waiters.erase w, holdTimer := some (now + BitVec.ofNat 32 (limit w)) }

/-! ### The laws of the part

Each law is a record of what every state of a run satisfies; `Sound` is all of them together. -/

/-- The states from CLAMPING to CLOSING. -/
def BayState.inFixture (st : BayState) : Prop := st ≠ .vacant ∧ st ≠ .loaded ∧ st ≠ .safe

/-- The fixture timer's purpose in a state and phase (R5). -/
def waitOf : BayState → Option Phase → Option TimerPurpose
  | .clamping, _ => some .clampFeedback
  | .contacting, _ => some .contactFeedback
  | .powering, _ => some .powerSettle
  | .closing, some .powerDown => some .powerOffSettle
  | .closing, some .retract => some .contactRelease
  | .closing, some .unclamp => some .clampRelease
  | _, _ => none

/-- A Bay Controller in order (R4, R5, R25, R28). -/
structure BayOk (x : BayCtl) : Prop where
  power   : x.out.dutPower = true ↔ x.ctx.state = .powering ∨ x.ctx.state = .powered ∨ x.ctx.state = .testing
  contact : x.out.contact = true ↔ x.ctx.state = .contacting ∨ x.ctx.state = .contacted ∨ x.ctx.state = .powering ∨
    x.ctx.state = .powered ∨ x.ctx.state = .testing ∨ x.ctx.phase = some .powerDown
  clamp   : x.ctx.state ≠ .safe →
    (x.out.clamp = true ↔ x.ctx.state.inFixture ∧ x.ctx.phase ≠ some .unclamp)
  phase   : x.ctx.phase.isSome = true ↔ x.ctx.state = .closing
  cause   : x.ctx.safeCause.isSome = true ↔ x.ctx.state = .safe
  owed    : x.ctx.unitOwed = true ↔ x.ctx.state = .testing
  timer   : x.timer.map FixtureTimer.purpose = waitOf x.ctx.state x.ctx.phase
  busy    : x.lamp = .busy ↔ x.ctx.state = .testing
  safe    : x.lamp = .safe ↔ x.ctx.state = .safe
  vacant  : x.ctx.state = .vacant → x.ctx.unitVerdict = none ∧ x.lamp = .off
  testing : x.ctx.state = .testing → x.ctx.unitVerdict = none ∧ x.ctx.serial.isSome = true ∧
    x.ctx.planTag.isSome = true ∧ x.ctx.startTime.isSome = true

/-- Both Bay Controllers are in order. -/
def BayLaw (s : State) : Prop := ∀ bay, BayOk (s.bays.get bay)

/-- A bay agrees with its fixture inputs (R6, R9, R16 to R20). -/
structure FixtureOk (x : BayCtx) (i : Inputs) (emergency : Bool) : Prop where
  vacant     : x.state = .vacant → i.unitPresent = false
  loaded     : x.state = .loaded → i.unitPresent = true
  interlock  : x.state.inFixture → i.interlockOk = true ∧ emergency = false
  clamping   : x.state = .clamping → i.clampClosed = false
  clamped    : x.state.inFixture → x.state ≠ .clamping → i.clampClosed = true
  contacting : x.state = .contacting → i.contactMade = false
  contacted  : x.state = .contacted ∨ x.state = .powering ∨ x.state = .powered ∨ x.state = .testing ∨
    x.phase = some .powerDown ∨ x.phase = some .retract → i.contactMade = true

/-- While the part runs, both bays agree with their inputs. -/
def FixtureLaw (s : State) : Prop :=
  s.running = true → ∀ bay, FixtureOk (s.bays.get bay).ctx (s.inputs.get bay) s.emergency

/-- The law of R34 and R40 over sources and routes, with R38 and R41. -/
structure SourceLaw (s : State) : Prop where
  parked   : ∀ i, (s.source i).parked = true ↔ ParkedBy s i (s.source i)
  stopped  : ∀ i, (s.source i).parked = true → (s.source i).generator = none
  free     : ∀ i, (s.source i).owner = none → s.source i = {}
  owned    : ∀ r ∈ s.routes, (s.source r.source).owner = some r.bay
  once     : s.routes.Pairwise fun r q => ¬ (r.source = q.source ∧ r.bay = q.bay ∧ r.pin = q.pin)
  pins     : s.routes.Pairwise fun r q =>
    ¬ (r.bay = q.bay ∧ r.pin = q.pin ∧ r.state.makes = true ∧ q.state.makes = true)
  four     : ∀ i, (s.routesOf i).length ≤ 4
  opening  : ∀ r ∈ s.routes, r.state.makes = true → (s.source r.source).freeing = false ∧
    (s.bayState r.bay = .contacted ∨ s.bayState r.bay = .powering ∨ s.bayState r.bay = .powered ∨
      s.bayState r.bay = .testing)
  freeing  : ∀ i, (s.source i).freeing = true → s.routesOf i ≠ []

/-- An entry may be sent to a bay in its present state: valid, the bay a member, its gate open (R55, R67). -/
def State.Sendable (s : State) (bay : Bay) (i : Nat) : Prop :=
  (s.frame i).valid = true ∧ (s.frame i).hasMember bay = true ∧
  (s.bayState bay = .testing ∨ (s.bayState bay = .powered ∧ (s.frame i).wake = true))

/-- A bay's part of the Network Stimulus Engine in order (R56, R61, R65, R67, R68, R77, R80). -/
structure NetOk (s : State) (bay : Bay) (n : Net) : Prop where
  off      : n.portState = .off ↔ s.bayState bay ≠ .powered ∧ s.bayState bay ≠ .testing
  floor    : -((s.setups.get bay).bucketDepth : Int) ≤ n.tokens
  cap      : n.tokens ≤ (s.setups.get bay).bucketDepth
  dry      : n.portState = .off → n.tokens = 0
  fails    : n.fails ≤ 16 ∧ (n.portState = .active → n.fails < 16)
  empty    : n.portState ≠ .active → n.queues = {}
  once     : ∀ c, (n.queues.get c).Nodup
  room     : ∀ c, (n.queues.get c).length ≤ 32
  waiting  : ∀ c, ∀ i ∈ n.queues.get c, s.Sendable bay i ∧ (s.frame i).class = c ∧ (n.rt i).queued = true
  queued   : ∀ p ∈ n.runtime, p.2.queued = true → ∃ c, p.1 ∈ n.queues.get c
  due      : ∀ p ∈ n.runtime, p.2.nextDue.isSome = true → s.Sendable bay p.1 ∧ 0 < (s.frame p.1).period
  sending  : ∀ c ∈ n.current, c.finishing = false → n.portState = .active ∧ c.stale = false ∧
    (n.queues.get c.cls).head? = some c.entry
  attempts : ∀ c ∈ n.current, c.finishing = false → 1 ≤ c.attempts ∧
    c.attempts ≤ 1 + (s.setups.get bay).retryLimit ∧
    (c.onLine = false → c.arbLost = false → c.attempts ≤ (s.setups.get bay).retryLimit)
  ending   : ∀ c ∈ n.current, c.finishing = true → c.onLine = true
  counts   : ∀ p ∈ n.runtime, p.2.aliveCount < 16 ∧ p.2.repeatLeft < 256
  busy     : n.lineBusy = true → ∃ c ∈ n.current, c.onLine = false ∧ c.arbLost = true

/-- Both network ports are in order. -/
def NetLaw (s : State) : Prop := ∀ bay, NetOk s bay (s.nets.get bay)

/-- A Response Table entry in order (R83, R86, R91, R92). -/
structure RespOk (s : State) (r : Resp) : Prop where
  ident    : r.ident < 2048
  counts   : r.count ≤ 65535 ∧ r.mismatch ≤ 255
  seen     : r.last.isSome = true ↔ 0 < r.count
  gaps     : r.gaps.isSome = true → r.last.isSome = true
  learned  : r.expectation = none → r.last.isSome = true ∧ r.mismatch = 0 ∧
    (s.bayState r.bay = .powered ∨ s.bayState r.bay = .testing)
  masked   : ∀ x ∈ r.expectation, x.value.and x.mask = x.value ∧ x.gapLow ≤ 60000 ∧ x.gapHigh ≤ 60000

/-- The law of R83 over the Response Table, with the bounds of R98 over the Monitor Queue. -/
structure ResponseLaw (s : State) : Prop where
  size   : ∀ p ∈ s.responses, p.1 < 128
  entry  : ∀ p ∈ s.responses, ∀ r ∈ p.2, RespOk s r
  keys   : s.responses.Pairwise fun p q => ∀ r ∈ p.2, ∀ r' ∈ q.2, ¬ (r.bay = r'.bay ∧ r.ident = r'.ident)
  pinned : ∀ bay, (s.responses.filter fun p => p.2.any fun r => r.bay = bay && r.expectation.isSome).length ≤ 40
  queue  : s.monitor.queue.length ≤ 64 ∧ s.monitor.drops ≤ 65535

/-- The law of R101 over the grant, with the rest of the arbiter's order (R102, R104, R106, R107). -/
structure GrantLaw (s : State) : Prop where
  one      : ∀ m m', (s.claim m).granted = true → (s.claim m').granted = true → m = m'
  live     : ∀ bay, s.claim (sequencer bay) ≠ .none → s.bayState bay = .powered ∨ s.bayState bay = .testing
  holder   : ∀ x ∈ s.meu.inFlight, (s.claim x.requester).granted = true ∧
    ∀ bay, x.requester = sequencer bay → x.bay = bay
  queue    : ∀ m, m ∈ s.meu.waiters ↔ (∃ p t, s.claim m = .waiting p t)
  once     : s.meu.waiters.Nodup
  prompt   : s.meu.waiters ≠ [] → ∃ m, (s.claim m).granted = true
  revoking : ∀ m p t l r, s.claim m = .revoking p t l r → s.measuring m = true
  pending  : ∀ m p t l, s.claim m = .holding p t l true → s.measuring m = true
  timer    : s.meu.holdTimer.isSome = true → ∃ m p t l, s.claim m = .holding p t l false

/-- The measurement in flight is a limit measurement of the bay. -/
def State.limitMeasuring (s : State) (bay : Bay) : Bool :=
  match s.meu.inFlight with
  | some x => x.bay = bay && x.limit.isSome
  | none => false

/-- The bay's active prompt is VISUAL. -/
def State.visualActive (s : State) (bay : Bay) : Bool :=
  match (s.prus.get bay).front with
  | .active p _ _ => p.kind = .visual
  | _ => false

/-- The laws of R143 and R149 over the log, its reservations and the step counts (R148). -/
structure LogLaw (s : State) : Prop where
  bound   : s.vlg.log.length + s.vlg.reservations.length ≤ 128
  unit    : ∀ bay, s.vlg.reservations.count (.unit bay) = (if s.bayState bay = .testing then 1 else 0)
  measure : ∀ bay, s.vlg.reservations.count (.measure bay) = (if s.limitMeasuring bay then 1 else 0)
  prompt  : ∀ bay, s.vlg.reservations.count (.prompt bay) = (if s.visualActive bay then 1 else 0)
  steps   : ∀ bay, s.vlg.stepsWritten.get bay + s.vlg.stepsReserved bay ≤ 65535
  counts  : ∀ bay, s.bayState bay = .testing →
    (s.bays.get bay).ctx.counts.pass + (s.bays.get bay).ctx.counts.marginal + (s.bays.get bay).ctx.counts.fail +
      (s.bays.get bay).ctx.counts.error = s.vlg.stepsWritten.get bay
  limit   : ∀ x ∈ s.meu.inFlight, x.limit.isSome = true →
    x.requester = sequencer x.bay ∧ s.bayState x.bay = .testing

/-- A prompt record in order in a bay's queue (R177). -/
structure PromptOk (s : State) (bay : Bay) (p : Prompt) : Prop where
  poster  : p.poster = sequencer bay ∨ p.poster = .ssv
  page    : ∀ x ∈ p.page, x < 800
  timeout : p.timeout = 0 ∨ 100 ≤ p.timeout ∧ p.timeout ≤ 600000
  keys    : (p.kind = .acknowledge → p.allowed.size = 1) ∧ (p.kind = .visual → p.allowed = ⟨true, true, false⟩)
  visual  : p.kind = .visual → s.bayState bay = .testing

/-- The prompts of a front place. -/
def Front.prompts : Front → List Prompt
  | .empty => []
  | .pending p => [p]
  | .active p _ _ => [p]

/-- A bay's Prompt Unit in order (R177 to R180, R186) with the window blink it asks for (R171, R173). -/
structure PruOk (s : State) (bay : Bay) (u : Pru) : Prop where
  records : ∀ p ∈ u.front.prompts ++ u.waiting, PromptOk s bay p
  first   : u.front = .empty → u.waiting = []
  size    : u.waiting.length ≤ 4
  live    : u.front ≠ .empty → s.bayState bay = .powered ∨ s.bayState bay = .testing
  pending : ∀ p, u.front = .pending p → p.kind = .visual ∧ s.vlg.log.length + s.vlg.reservations.length = 128
  blink   : (s.windows.get bay).promptBlink = (match u.front with | .active p _ _ => p.blink | _ => false)

/-- Both Prompt Units are in order. -/
def PromptLaw (s : State) : Prop := ∀ bay, PruOk s bay (s.prus.get bay)

/-- The display's addresses stay where R157 to R171 put them, and SAFE shows (R171, R174, R175). -/
structure DisplayLaw (s : State) : Prop where
  cells   : ∀ p ∈ s.odc.codes, p.1 < 2048
  attrs   : ∀ p ∈ s.odc.attrs, p.1 < 2048
  glyphs  : ∀ p ∈ s.odc.glyphs, 0xE0 ≤ p.1 ∧ p.1 < 0x100 ∧ ∀ row ∈ p.2.toList, row.toNat < 64
  screen  : ∀ x ∈ s.odc.screen, x < 2048
  cursors : ∀ m, (s.access.get m).cursor < addressSpace m
  clears  : ∀ m, ∀ c ∈ (s.access.get m).clear, 0 < c.left ∧ c.left ≤ addressSpace m ∧ c.next < addressSpace m
  windows : ∀ bay, (s.windows.get bay).start < 800 ∧ ∀ x ∈ (s.windows.get bay).savedStart, x < 800
  alert   : ∀ bay, ((s.windows.get bay).safeBlink = true ↔ s.bayState bay = .safe) ∧
    ((s.windows.get bay).savedStart.isSome = true ↔ s.bayState bay = .safe)

/-- Every sparse table is in its one canonical form. -/
structure TableLaw (s : State) : Prop where
  sources   : Table.wf {} s.sources
  frames    : Table.wf {} s.frames
  runtime   : ∀ bay, Table.wf {} (s.nets.get bay).runtime
  responses : Table.wf none s.responses
  cal       : Table.wf {} s.cal.recs
  limits    : Table.wf {} s.limits
  stats     : ∀ bay, Table.wf 0 (s.stats.get bay)
  codes     : Memory.wf s.odc.codes
  attrs     : Table.wf {} s.odc.attrs
  glyphs    : Table.wf {} s.odc.glyphs

/-- A Bay Setup record in its ranges (R30). -/
structure SetupOk (p : Setup) : Prop where
  feedback : 100 ≤ p.clampTimeout ∧ p.clampTimeout ≤ 5000 ∧ 100 ≤ p.contactTimeout ∧ p.contactTimeout ≤ 5000
  settle   : p.powerSettle ≤ 2000 ∧ p.powerOffSettle ≤ 2000
  rate     : p.bitRate = 125 ∨ p.bitRate = 250 ∨ p.bitRate = 500 ∨ p.bitRate = 1000
  load     : 10 ≤ p.loadLimit ∧ p.loadLimit ≤ 100 ∧ 200 ≤ p.bucketDepth ∧ p.bucketDepth ≤ 20000
  weights  : 1 ≤ p.w2 ∧ p.w2 ≤ 15 ∧ 1 ≤ p.w1 ∧ p.w1 ≤ 15 ∧ 1 ≤ p.w0 ∧ p.w0 ≤ 15
  limits   : p.retryLimit ≤ 7 ∧ 100 ≤ p.ageLimit ∧ p.ageLimit ≤ 60000 ∧ 10 ≤ p.holdLimit ∧ p.holdLimit ≤ 5000
  page     : p.alertPage < 800

/-- A programmed setting in its ranges (R33, R46 to R51). -/
structure SettingOk (x : Source) : Prop where
  period : x.periodTicks = 0 ∨ 20 ≤ x.periodTicks ∧ x.periodTicks ≤ 4000000
  high   : x.highTicks ≤ x.periodTicks
  duty   : x.duty ≤ 1000
  level  : x.levelCode ≤ 4000
  mode   : x.mode = .stopped ↔ x.periodTicks = 0

/-- Every stored setting is in the range its rule gives (R30, R33, R130, R134, R152, R153, R210). -/
structure RangeLaw (s : State) : Prop where
  setups    : ∀ bay, SetupOk (s.setups.get bay)
  sources   : ∀ i, SettingOk (s.source i)
  cal       : ∀ p ∈ s.cal.recs, p.1 < 10 ∧ p.2.gain ≤ 65535 ∧ -32768 ≤ p.2.offset ∧ p.2.offset ≤ 32767
  limits    : ∀ p ∈ s.limits, p.1 < 256 ∧ p.2.low ≤ p.2.high ∧ p.2.guard < 2147483648
  threshold : 1 ≤ s.vlg.threshold ∧ s.vlg.threshold ≤ 128
  stats     : ∀ bay, ∀ p ∈ s.stats.get bay, p.1 < 16 ∧ p.2 ≤ 4294967295
  saving    : s.store.save.isSome = true ↔ s.store.state = .saving
  image     : ∀ x ∈ s.store.save, x.buffer.length = 41 ∧ x.written ≤ 42

/-- The edge entries a master's set may hold (R198). -/
def Edge.goesTo (m : Master) (e : Edge) : Prop :=
  match e.cause, e.sub with
  | .safe, .none | .netFault, .none | .bayState, .none | .prompt, .none =>
    ∃ bay, e.bay = some bay ∧ (m = sequencer bay ∨ m = .ssv)
  | .store, .none => m = .ssv ∧ e.bay = none
  | .preempt, .none => e.bay = masterBay m
  | .result, .grant => e.bay = masterBay m
  | .result, .complete => ∃ bay, e.bay = some bay ∧ (m = sequencer bay ∨ m = .ssv)
  | _, _ => False

/-- The attention sets in order (R198, R199, R201, R203). -/
structure AttnLaw (s : State) : Prop where
  order   : ∀ m, (s.attn.get m).edges.Pairwise fun e f => e.rank < f.rank
  causes  : ∀ m, ∀ e ∈ (s.attn.get m).edges, e.goesTo m
  senders : ∀ m, (s.attn.get m).notices.Pairwise fun n k => n.sender ≠ k.sender
  notices : ∀ m, ∀ n ∈ (s.attn.get m).notices, n.sender ≠ m ∧ n.merged ≤ 255

/-- Every law together. -/
structure Sound (s : State) : Prop where
  bay      : BayLaw s
  fixture  : FixtureLaw s
  source   : SourceLaw s
  net      : NetLaw s
  response : ResponseLaw s
  grant    : GrantLaw s
  log      : LogLaw s
  prompt   : PromptLaw s
  display  : DisplayLaw s
  table    : TableLaw s
  range    : RangeLaw s
  attn     : AttnLaw s

end Sys2Proof.Machine
end

