-- ==== Sys2Proof/WellFormed.lean ====
section
/-! DEFINITION. Which commands can reach the part: the operand lengths and list lengths that the framing of R190 and
R193, the frames of a CAN network and the store image admit. -/

namespace Sys2Proof

/-- The request codes of the code table of R197. -/
def knownCodes : List Nat :=
  [0x01, 0x02, 0x03] ++ (List.range 12).map (· + 0x10) ++ (List.range 10).map (· + 0x20) ++
  (List.range 6).map (· + 0x30) ++ (List.range 5).map (· + 0x40) ++ (List.range 9).map (· + 0x50) ++
  (List.range 4).map (· + 0x60) ++ (List.range 9).map (· + 0x70) ++ (List.range 4).map (· + 0x80) ++ [0x90, 0x91]

/-- An announced operand length that is taken, 0 to 250 (R190, R193). -/
def Req.wf (r : Req) : Bool := r.len.toNat ≤ 250

/-- The frame can stand on the network: at most 8 data bytes (R85). -/
def RxFrame.wf (f : RxFrame) : Bool := f.data.length ≤ 8

/-- The serial characters are those the length byte announces, where the whole length agrees (R12, R197). -/
def StartOps.wf (r : Req) (o : StartOps) : Bool :=
  r.len.toNat ≠ 4 + o.serialLen.toNat || o.serial.length = o.serialLen.toNat

/-- The load outcome can happen: an image read whole is 41 bytes (R208, R209). -/
def LoadEnd.wf : LoadEnd → Bool
  | .image bytes => bytes.length = 41
  | .noAck => true
  | .timeLimit => true

/-- The save outcome can happen: a verify read whole is 41 bytes (R211). -/
def SaveEnd.wf : SaveEnd → Bool
  | .readBack bytes => bytes.length = 41
  | .noAck => true
  | .timeLimit => true

/-- The command can reach the part. -/
def Instr.wf : Instr → Bool
  | .powerOn _ _ _ => true
  | .rstnLow => true
  | .endOfLoad how => how.wf
  | .calSaveEnd how => how.wf
  | .selRisesEarly _ => true
  | .operandLengthOver250 r _ => 250 < r.len.toNat
  | .unknownRequest r code => r.wf && !knownCodes.contains code.toNat
  | .statusRead r => r.wf
  | .attentionRead r => r.wf
  | .noticePost r _ _ => r.wf
  | .clamp r => r.wf
  | .contact r => r.wf
  | .power r => r.wf
  | .start r o => r.wf && o.wf r
  | .finish r => r.wf
  | .unload r => r.wf
  | .abort r => r.wf
  | .release r => r.wf
  | .bayReset r => r.wf
  | .baySetupWrite r _ => r.wf
  | .baySetupRead r => r.wf
  | .bayRead r => r.wf
  | .sourceClaim r _ => r.wf
  | .sourceFree r _ => r.wf
  | .setSpeed r _ _ _ => r.wf
  | .setRpm r _ _ _ => r.wf
  | .setFrequency r _ _ => r.wf
  | .setDuty r _ _ => r.wf
  | .setLevel r _ _ => r.wf
  | .sourceRead r _ => r.wf
  | .routeClose r _ _ => r.wf
  | .routeOpen r _ _ => r.wf
  | .frameWrite r _ _ => r.wf
  | .frameRead r _ => r.wf
  | .setPayload r _ _ bytes => r.wf && (r.len.toNat < 2 || bytes.length = r.len.toNat - 2)
  | .send r _ _ => r.wf
  | .netResume r => r.wf
  | .netRead r => r.wf
  | .expect r _ => r.wf
  | .unexpect r _ => r.wf
  | .responseRead r _ _ => r.wf
  | .checkResponse r _ _ => r.wf
  | .monitorPop r => r.wf
  | .meuClaim r => r.wf
  | .meuRelease r => r.wf
  | .measure r _ => r.wf
  | .resultRead r => r.wf
  | .meuRead r => r.wf
  | .calWrite r _ _ _ => r.wf
  | .calRead r _ => r.wf
  | .limitWrite r _ _ => r.wf
  | .limitRead r _ => r.wf
  | .noteStep r _ value => r.wf && value.isSome == (r.len.toNat = 5)
  | .logPop r => r.wf
  | .logSetup r _ => r.wf
  | .statsRead r _ _ _ => r.wf
  | .setCursor r _ => r.wf
  | .displayWrite r codes => r.wf && codes.length = r.len.toNat
  | .displayRead r _ => r.wf
  | .attrSet r _ _ => r.wf
  | .attrClear r _ _ => r.wf
  | .clearArea r _ => r.wf
  | .setWindow r _ => r.wf
  | .stationScreen r _ _ => r.wf
  | .glyphLoad r _ _ => r.wf
  | .prompt r _ => r.wf
  | .promptCancel r promptId => r.wf && promptId.isSome == (r.len.toNat = 1)
  | .answerRead r => r.wf
  | .promptRead r => r.wf
  | .calSave r => r.wf
  | .rackReset r => r.wf
  | .unitPresentRising _ => true
  | .unitPresentFalling _ => true
  | .clampClosedRising _ => true
  | .clampClosedFalling _ => true
  | .contactMadeRising _ => true
  | .contactMadeFalling _ => true
  | .interlockOkFalling _ => true
  | .emergencyActive _ => true
  | .emergencyInactive => true
  | .fixtureTimerExpiry _ => true
  | .routeTransitionComplete _ _ _ => true
  | .pulsePeriodEnd _ => true
  | .frameDue _ _ => true
  | .tokenAccrual _ => true
  | .attemptRestart _ => true
  | .attemptOutcome _ _ => true
  | .frameReceived _ frame => frame.wf
  | .agingPass => true
  | .holdTimerExpiry => true
  | .senseConnectComplete => true
  | .senseDisconnectComplete => true
  | .settleEnd => true
  | .sampleTaken _ => true
  | .blinkPhaseChange => true
  | .clearBlock _ => true
  | .keyPress _ _ => true
  | .promptTimerExpiry _ => true
  | .abortKey _ => true
  | .interlockOkRising _ => true
  | .supplyLoss => true

end Sys2Proof
end

