-- ==== Sys2Proof/Certificates/Slice0/Obligations.lean ====
section
/-! DEFINITION. The statements for the provers, one `Obligations.<Name>` each. OBLIGATIONS.json gives each its title,
tier and the rules of spec/ it formalises. -/

open Sys2Proof Sys2Proof.Machine

/-! ### The step, the queue and the framing -/

/-- The step of a state with a command waiting is that command's meaning on the state with the rest of the queue. -/
def Obligations.StepRunsTheFrontCommand : Prop :=
  ∀ (i : Instr) (rest : List Instr) (s : State), step { s with pending := i :: rest } = exec i { s with pending := rest }

/-- With no command waiting (the model's choice, notes/assumptions/1.md): a part in reset or without supply idles; with no
event due a millisecond passes, in which a save in progress has some of its writes acknowledged, how many being a free
choice (notes/assumptions/41.md); with one event due that event is taken, with several one of them (2.md). The next attempt of
a frame between attempts (R73, R74) is due unless a frame of the unit delays it (R60), which is a free choice in each
millisecond (8.md). -/
def Obligations.IdleStepIsATick : Prop :=
  ∀ s : State, s.pending = [] →
    (s.running = false → step s = .next s) ∧
    (s.running = true → s.dueEvents = [] →
      let now := s.rackTime + 1
      let asked := if (s.nets.get .a).restarts || (s.nets.get .b).restarts then s.choices + 1 else s.choices
      let u := { s with rackTime := now, settling := s.settling && now.toNat < 3, choices := asked }
      (s.store.state ≠ .saving → step s = .next u) ∧
      (∀ x, s.store = ⟨.saving, some x⟩ → 42 ≤ x.written → step s = .next u) ∧
      (∀ x, s.store = ⟨.saving, some x⟩ → x.written < 42 →
        let k := Config.storeAcks asked
        step s = .next { u with
          store := ⟨.saving, some (if k = 0 then x else ⟨x.buffer, min 42 (x.written + k), now⟩)⟩
          choices := asked + 1 })) ∧
    (∀ i, s.running = true → s.dueEvents = [i] → step s = exec i s) ∧
    (∀ i j l, s.running = true → s.dueEvents = i :: j :: l →
      ∃ e ∈ i :: j :: l, step s = exec e { s with choices := s.choices + 1 }) ∧
    ∀ bay, (Instr.attemptRestart bay ∈ s.dueEvents ↔
        (s.nets.get bay).restarts = true ∧ Config.unitDelays s.choices (bayCode (some bay)) = false) ∧
      ((s.nets.get bay).restarts = true ↔ (s.nets.get bay).portState = .active ∧ (s.nets.get bay).lineBusy = false ∧
        ∃ c, (s.nets.get bay).current = some c ∧ c.onLine = false ∧ c.finishing = false)

/-- Every command answers a next state, leaves the waiting commands alone, and leaves rack time alone unless it starts
it again at 0. -/
def Obligations.EveryCommandCompletes : Prop :=
  ∀ (i : Instr) (s : State), ∃ t : State, exec i s = .next t ∧ t.pending = s.pending ∧
    (t.rackTime = s.rackTime ∨ t.rackTime = 0 ∧ ((∃ x y z, i = .powerOn x y z) ∨ ∃ r, i = .rackReset r))

/-- The checks of R194 in their order: the first that fails gives the answer and nothing else changes. A port that waits
for SEL to rise answers nothing (R206). That a request to a part in reset or without supply, and one to such a port, leaves
the state as it is, is the model's (notes/assumptions/3.md and 7.md). -/
def Obligations.AdmissionChecksInOrder : Prop :=
  ∀ (i : Instr) (row : Row) (s : State), requestRow i = some row →
    let refused := fun st => exec i s = .next (s.reply row.req.port ⟨st, .none⟩)
    let late := s.store.state ≠ .loading ∨ takenDuringLoad i
    let mine := (row.sender = .station → row.req.port = .ssv) ∧ (row.sender = .bayPorts → row.req.port ≠ .ssv)
    (s.running = false ∨ (s.ports.get row.req.port).held = true → exec i s = .next s) ∧
    (s.running = true → (s.ports.get row.req.port).held = false →
      (¬ late → refused .busy) ∧
      (late → ¬ mine → refused .denied) ∧
      (late → mine → ¬ row.fits → refused .range) ∧
      (late → mine → row.fits → row.tagged → row.req.port = .ssv → row.req.tag ≠ 1 → row.req.tag ≠ 2 →
        refused .range))

/-- Framing faults (R193): an early rise of SEL leaves no answer and ends a wait for SEL, a length above 250 is answered
RANGE and an unknown code UNKNOWN, each with nothing else changed; every answer goes to its port alone (R190). That a
length above 250 is answered RANGE with an unknown code too is the model's reading (notes/assumptions/22.md). -/
def Obligations.FramingFaultsHaveNoEffect : Prop :=
  ∀ (m : Master) (r : Req) (code : Byte) (s : State), s.running = true →
    exec (.selRisesEarly m) s = .next { s with ports := s.ports.set m ⟨false, none⟩ } ∧
    ((s.ports.get r.port).held = false →
      exec (.operandLengthOver250 r code) s = .next (s.reply r.port ⟨.range, .none⟩) ∧
      exec (.unknownRequest r code) s = .next (s.reply r.port ⟨.unknown, .none⟩)) ∧
    (∀ x : Answer, s.reply m x = { s with ports := (s.reply m x).ports } ∧
      ∀ n, (s.reply m x).ports.get n = if n = m then { s.ports.get m with answer := some x } else s.ports.get n)

/-- The bytes of a request (R190, R193, R197): those of a well-formed request whose length fits its row of the code table
make that very command, whatever follows them; every request has bytes; with fewer operand bytes than announced no request
is taken; a length above 250 and a code outside the table are framing faults. The order of the operands, the coding of
START's overrides and 0xFF for an absent byte position of FRAME WRITE are the model's (notes/assumptions/6.md). That a length
above 250 decides for an unknown code too is the model's reading (notes/assumptions/22.md). -/
def Obligations.RequestBytesMakeTheCommand : Prop :=
  (∀ (i : Instr) (row : Row) (bytes extra : List Byte), i.wf = true → requestRow i = some row → row.fits →
    (∀ r x o, i = .frameWrite r x o → (∀ a ∈ o.alive, a.1 ≠ 0xFF) ∧ ∀ c ∈ o.checksum, c ≠ 0xFF) →
    i.requestBytes = some bytes →
    bytes.length = 3 + row.req.len.toNat ∧ commandOf row.req.port (bytes ++ extra) = i) ∧
  (∀ (i : Instr), (∃ row, requestRow i = some row) ↔ ∃ bytes, i.requestBytes = some bytes) ∧
  (∀ (m : Master) (code tag n : Byte) (l : List Byte),
    commandOf m [] = .selRisesEarly m ∧ commandOf m [code] = .selRisesEarly m ∧
    commandOf m [code, tag] = .selRisesEarly m ∧
    (l.length < n.toNat → commandOf m (code :: tag :: n :: l) = .selRisesEarly m) ∧
    (n.toNat ≤ l.length →
      (250 < n.toNat → commandOf m (code :: tag :: n :: l) = .operandLengthOver250 ⟨m, tag, n⟩ code) ∧
      (n.toNat ≤ 250 → (∀ i x, Instr.requestBytes i = some x → x.head? ≠ some code) →
        commandOf m (code :: tag :: n :: l) = .unknownRequest ⟨m, tag, n⟩ code)))

/-- What SDO carries in a select period (R190, R207): 0xFF while the request comes in, then status, response length and
response, then 0xFF. The responses of ATTENTION READ, STATUS READ, LOG POP and MONITOR POP lie as R207 gives them. -/
def Obligations.AnswersAreShiftedOut : Prop :=
  let at_ := fun (l : List Byte) (k : Nat) => (l.getD k 0).toNat
  let two := fun (l : List Byte) (k : Nat) => at_ l k * 256 + at_ l (k + 1)
  let four := fun (l : List Byte) (k : Nat) => two l k * 65536 + two l (k + 2)
  let bay := fun b : Bay => (match b with
    | .a => 1
    | .b => 2 : Nat)
  let has := fun (f : Bool) (w : Nat) => if f then w else 0
  (∀ (s : State) (m : Master) (n place : Nat),
    (place < 3 + n → s.sdo m n place = 0xFF) ∧
    ((s.ports.get m).answer = none → s.sdo m n place = 0xFF) ∧
    ∀ x, (s.ports.get m).answer = some x → let l := x.body.bytes
      s.sdo m n (3 + n) = x.status.code ∧ s.sdo m n (4 + n) = BitVec.ofNat 8 l.length ∧
      (∀ k, k < l.length → s.sdo m n (5 + n + k) = l.getD k 0) ∧
      (5 + n + l.length ≤ place → s.sdo m n place = 0xFF)) ∧
  (∀ (e : Edge) (k : Notice) (left : Nat), left < 256 → k.merged < 256 →
    (Body.attention (.edge e) left).bytes = [BitVec.ofNat 8 e.cause.code,
      match e.bay with
        | none => 0
        | some .a => 1
        | some .b => 2,
      match e.sub with
        | .none => 0
        | .grant => 1
        | .complete => 2, BitVec.ofNat 8 left] ∧
    (Body.attention (.notice k) left).bytes = [2, 0, 0, BitVec.ofNat 8 left, noticeCode k.sender, k.code,
      BitVec.ofNat 8 k.merged] ∧
    (Body.attention .log left).bytes = [9, 0, 0, BitVec.ofNat 8 left] ∧
    (Body.attention .monitor left).bytes = [10, 0, 0, BitVec.ofNat 8 left]) ∧
  (∀ (now : Time) (stA stB : BayState) (phA phB : Option Phase) (stored : StoreState) (uncal : Bool) (start : Option Nat)
    (log reserved threshold queued drops : Nat), (∀ x ∈ start, x < 65536) → log < 256 → reserved < 256 →
    threshold < 256 → queued < 256 → drops < 65536 →
    let l := (Body.status now stA phA stB phB stored uncal start log reserved threshold queued drops).bytes
    l.length = 19 ∧ four l 0 = now.toNat ∧ l.getD 4 0 = stA.code ∧ l.getD 5 0 = phaseCode phA ∧
    l.getD 6 0 = stB.code ∧ l.getD 7 0 = phaseCode phB ∧ l.getD 8 0 = stored.code ∧ at_ l 9 = has uncal 1 ∧
    at_ l 10 = has start.isSome 1 ∧ two l 11 = start.getD 0 ∧ at_ l 13 = log ∧ at_ l 14 = reserved ∧
    at_ l 15 = threshold ∧ at_ l 16 = queued ∧ two l 17 = drops) ∧
  (∀ (left : Nat) (r : StepRec), left < 256 → r.stepIndex < 65536 → (∀ x ∈ r.limit, x < 256) →
    (∀ v ∈ r.value, -2147483648 ≤ v ∧ v < 2147483648) →
    let whole := (Body.log left (.step r)).bytes
    let l := whole.drop 1
    let f := r.flags
    whole.length = 22 ∧ at_ whole 0 = left ∧ at_ l 0 = 1 ∧ at_ l 1 = bay r.bay ∧ two l 2 = r.unitSeq.toNat ∧
    two l 4 = r.stepIndex ∧ l.getD 6 0 = r.source.code ∧ l.getD 7 0 = r.verdict.code ∧
    at_ l 8 = has r.value.isSome 1 + has r.limit.isSome 2 + has r.promptId.isSome 4 ∧
    (four l 9 : Int) = (if r.value.getD 0 < 0 then r.value.getD 0 + 4294967296 else r.value.getD 0) ∧
    at_ l 13 = r.limit.getD 0 ∧ l.getD 14 0 = r.promptId.getD 0 ∧
    two l 15 = has f.clipped 1 + has f.sat 2 + has f.uncal 4 + has f.timeout 8 + has f.neverSeen 16 + has f.tooFast 32 +
      has f.tooSlow 64 + has f.silent 128 + has f.mismatch 256 ∧ four l 17 = r.time.toNat) ∧
  (∀ (left : Nat) (r : UnitRec), left < 256 → r.serial.length ≤ 20 → r.counts.pass < 65536 → r.counts.marginal < 65536 →
    r.counts.fail < 65536 → r.counts.error < 65536 →
    let whole := (Body.log left (.unit r)).bytes
    let l := whole.drop 1
    whole.length = 47 ∧ at_ whole 0 = left ∧ at_ l 0 = 2 ∧ at_ l 1 = bay r.bay ∧ two l 2 = r.unitSeq.toNat ∧
    at_ l 4 = r.serial.length ∧ (∀ k, k < 20 → l.getD (5 + k) 0 = r.serial.getD k 0) ∧ two l 25 = r.planTag.toNat ∧
    l.getD 27 0 = r.verdict.code ∧ two l 28 = r.counts.pass ∧ two l 30 = r.counts.marginal ∧
    two l 32 = r.counts.fail ∧ two l 34 = r.counts.error ∧ four l 36 = r.duration.toNat ∧
    l.getD 40 0 = causeCode r.cause ∧ at_ l 41 = has r.uncal 1 + has r.unknown 2 ∧ four l 42 = r.time.toNat) ∧
  (∀ (left : Nat) (r : MonRec), left < 256 → r.ident < 65536 → r.data.length ≤ 8 →
    let whole := (Body.monitor left r).bytes
    let l := whole.drop 1
    whole.length = 18 ∧ at_ whole 0 = left ∧ at_ l 0 = (if r.direction = .tx then 0 else 1) ∧ at_ l 1 = bay r.bay ∧
    two l 2 = r.ident ∧ at_ l 4 = r.data.length ∧ (∀ k, k < 8 → l.getD (5 + k) 0 = r.data.getD k 0) ∧
    four l 13 = r.time.toNat)

/-! ### Power, reset and the store -/

/-- Power-on (R209, R206 and the reset tables): rack time 0, the store LOADING with the default calibration and UNCAL,
each bay LOADED or VACANT by UNIT_PRESENT with its outputs off, every block empty, the user glyphs blank; a port with SEL
low waits. That the sense record names no pin is the model's (notes/assumptions/16.md), and so are the bit rate and the
accrual time that a port which is OFF holds (35.md) and the absent alive and checksum bytes of an empty entry (44.md). -/
def Obligations.PowerOnStartsEveryBlock : Prop :=
  ∀ (selA selB selS : Bool) (s : State), ∃ t : State, exec (.powerOn selA selB selS) s = .next t ∧
    t.running = true ∧ t.rackTime = 0 ∧ t.store = ⟨.loading, none⟩ ∧ t.cal.uncal = true ∧ t.settling = true ∧
    (∀ bay range, t.calRec bay range = ⟨16384, 0⟩) ∧
    (∀ bay, t.bays.get bay =
        { ctx := { state := if (s.inputs.get bay).unitPresent then .loaded else .vacant }
          out := ⟨false, false, false⟩, lamp := .off, timer := none } ∧
      t.setups.get bay = {} ∧ t.nets.get bay = {} ∧ t.windows.get bay = {} ∧ t.prus.get bay = {} ∧
      (∀ c, t.stat bay c = 0)) ∧
    (∀ i, t.source i = {}) ∧ t.routes = [] ∧ (∀ i, t.frame i = {}) ∧ (∀ i, t.respAt i = none) ∧
    t.monitor = ⟨[], 0⟩ ∧ t.meu.inFlight = none ∧ t.meu.waiters = [] ∧ t.meu.holdTimer = none ∧
    t.meu.sense = some ⟨none, .disconnecting 3⟩ ∧
    (∀ m, t.claim m = .none ∧ t.meu.slots.get m = none ∧ t.access.get m = ⟨0, 0x20, none⟩ ∧ t.attn.get m = ⟨[], []⟩) ∧
    (∀ i, t.limit i = {}) ∧ t.vlg = ⟨[], [], ⟨0, 0⟩, 1⟩ ∧ (∀ c, t.odc.code c = 0x20 ∧ t.odc.attr c = {}) ∧
    (∀ c, Table.read {} t.odc.glyphs c = ⟨0, 0, 0, 0, 0, 0, 0, 0⟩) ∧ t.odc.screen = none ∧ t.odc.blinkOn = true ∧
    t.ports = ⟨⟨!selA, none⟩, ⟨!selB, none⟩, ⟨!selS, none⟩⟩ ∧
    t.inputs = s.inputs ∧ t.emergency = s.emergency ∧ t.pending = s.pending

/-- RSTN low and a loss of supply stop the part and drop its answers (R209, R211); what the stopped part then holds is
the model's choice (notes/assumptions/7.md). Until power-on only the input pins are followed. -/
def Obligations.CutOffStopsThePart : Prop :=
  (∀ s : State, exec .rstnLow s = exec .supplyLoss s ∧ ∃ t : State, exec .rstnLow s = .next t ∧
    t = { s with running := false, ports := t.ports } ∧
    ∀ m, t.ports.get m = { s.ports.get m with answer := none }) ∧
  (∀ (i : Instr) (s : State), s.running = false →
    (∀ x y z, i ≠ .powerOn x y z) → i ≠ .rstnLow → i ≠ .supplyLoss →
    ∃ t : State, exec i s = .next t ∧ t = { s with inputs := t.inputs, emergency := t.emergency })

/-- The end of the power-on load (R209): a valid image gives its ten records and clears UNCAL, every other end keeps
the set and UNCAL; the store is READY and STORE goes to the station. -/
def Obligations.EndOfLoadTakesAValidImage : Prop :=
  ∀ (how : LoadEnd) (s : State), s.running = true → s.store.state = .loading →
    (how = .timeLimit → 100 ≤ s.rackTime.toNat) →
    ∃ t : State, exec (.endOfLoad how) s = .next t ∧
      t = { s with cal := t.cal, store := { s.store with state := .ready }, attn := t.attn } ∧
      Raised (fun m e => m = .ssv ∧ e = ⟨.store, none, .none⟩) s t ∧
      ((∀ l, how = .image l → l.length ≠ 41 ∨ l.getD 0 0 ≠ 0xC7) → t.cal = s.cal) ∧
      (∀ l, how = .image l → l.length = 41 → l.getD 0 0 = 0xC7 → t.cal.uncal = false ∧
        ∀ bay range, let p := calPosition bay range
          (t.calRec bay range).gain = (l.getD (1 + 4 * p) 0).toNat * 256 + (l.getD (2 + 4 * p) 0).toNat ∧
          (t.calRec bay range).offset = (l.getD (3 + 4 * p) 0).toInt * 256 + (l.getD (4 + 4 * p) 0).toNat)

/-- CAL SAVE and the end of a save (R210, R211): after the 42 writes of the stages the verify that reads the buffer back
succeeds and one that reads other bytes fails; a failed acknowledge and a write 20 ms without one fail at any time. The stages of a save: the store holds the old image before the
first write, no valid one while the writes go on, and the buffer after the last. The image saved is the signature and the
ten records, most significant byte first (R207, R208), and a load of it gives the same Calibration Set back. That the
bytes read back are an operand of CAL_SAVE_END, and that it has no effect before the last write is acknowledged, is the
model's (notes/assumptions/23.md, 3.md). -/
def Obligations.CalSaveKeepsASnapshot : Prop :=
  ((∀ (r : Req) (s : State), Admitted r .station false s → r.len = 0 →
     (s.store.state = .saving → exec (.calSave r) s = .next (s.reply r.port ⟨.busy, .none⟩)) ∧
     (s.store.state ≠ .saving →
       exec (.calSave r) s = .next ({ s with store := ⟨.saving, some ⟨s.cal.image, 0, s.rackTime⟩⟩ }.reply r.port
         ⟨.accepted, .none⟩))) ∧
   (∀ (x : Save) (how : SaveEnd) (s : State), s.running = true → s.store = ⟨.saving, some x⟩ →
     let late := x.written < 42 ∧ 20 ≤ (s.rackTime - x.sentAt).toNat
     let told := Raised fun m e => m = .ssv ∧ e = ⟨.store, none, .none⟩
     (how = .readBack x.buffer → 42 ≤ x.written → ∃ t : State, exec (.calSaveEnd how) s = .next t ∧
       t = { s with store := ⟨.ready, none⟩, cal := { s.cal with uncal := false }, attn := t.attn } ∧ told s t) ∧
     ((∃ bytes, bytes ≠ x.buffer ∧ how = .readBack bytes ∧ 42 ≤ x.written) ∨ how = .noAck ∨ (how = .timeLimit ∧ late) →
       ∃ t : State, exec (.calSaveEnd how) s = .next t ∧ t = { s with store := ⟨.fault, none⟩, attn := t.attn } ∧
         told s t) ∧
     ((∃ bytes, how = .readBack bytes) → x.written < 42 → exec (.calSaveEnd how) s = .next s) ∧
     (how = .timeLimit → ¬ late → exec (.calSaveEnd how) s = .next s)) ∧
   (∀ (x : Save) (old : List Byte), x.buffer.length = 41 → x.buffer.getD 0 0 = 0xC7 → old.length = 41 → x.written ≤ 42 →
     let l := x.stored old
     (x.written = 0 → l = old) ∧ (x.written = 42 → l = x.buffer) ∧
     (0 < x.written → x.written < 42 → l.getD 0 0 = 0x00) ∧
     ∀ j, 1 ≤ j → j ≤ 40 → l.getD j 0 = if j < x.written then x.buffer.getD j 0 else old.getD j 0)) ∧
  (∀ (c : Cal), (∀ p, (Table.read ({} : CalRec) c.recs p).gain ≤ 65535 ∧
       -32768 ≤ (Table.read ({} : CalRec) c.recs p).offset ∧ (Table.read ({} : CalRec) c.recs p).offset ≤ 32767) →
     c.image.length = 41 ∧ c.image.getD 0 0 = 0xC7 ∧
     (∀ p, p < 10 →
       (c.image.getD (1 + 4 * p) 0).toNat * 256 + (c.image.getD (2 + 4 * p) 0).toNat =
         (Table.read ({} : CalRec) c.recs p).gain ∧
       (c.image.getD (3 + 4 * p) 0).toInt * 256 + (c.image.getD (4 + 4 * p) 0).toNat =
         (Table.read ({} : CalRec) c.recs p).offset) ∧
     ∀ (s : State), s.running = true → s.store.state = .loading →
       ∃ t : State, exec (.endOfLoad (.image c.image)) s = .next t ∧
         ∀ bay range, t.calRec bay range = Table.read {} c.recs (calPosition bay range))

/-- RACK RESET (R212): refused BUSY while SAVING; otherwise rack time 0 and every block at its rack-reset values but for
the Calibration Set, the store and the Bay Setup records, then BAY_STATE to each sequencer alone. That the sense record
names no pin, what a port that is OFF holds, and that an empty entry has no alive and checksum byte, are the model's
(notes/assumptions/16.md, 35.md, 44.md). -/
def Obligations.RackResetKeepsTheTable : Prop :=
  ∀ (r : Req) (s : State), Admitted r .station false s → r.len = 0 →
    (s.store.state = .saving → exec (.rackReset r) s = .next (s.reply r.port ⟨.busy, .none⟩)) ∧
    (s.store.state ≠ .saving → ∃ t : State,
      exec (.rackReset r) s = .next (t.reply r.port
        ⟨.ok, .rack s.store.state s.cal.uncal (t.bayState .a) (t.bayState .b)⟩) ∧
      t = { State.reset with
        inputs := s.inputs, emergency := s.emergency, bays := t.bays, setups := s.setups, nets := t.nets, cal := s.cal
        store := s.store, attn := t.attn, ports := s.ports, choices := s.choices, pending := s.pending } ∧
      (∀ bay, t.bays.get bay =
          { ctx := { state := if (s.inputs.get bay).unitPresent then .loaded else .vacant
                     policy := ⟨(s.setups.get bay).marginalFails, (s.setups.get bay).unknownFails,
                       (s.setups.get bay).operatorAbort⟩ }
            out := ⟨false, false, false⟩, lamp := .off, timer := none } ∧
        t.nets.get bay = { bitRate := (s.setups.get bay).bitRate, credit := (s.setups.get bay).w2 }) ∧
      t.attn = ⟨⟨[⟨.bayState, some .a, .none⟩], []⟩, ⟨[⟨.bayState, some .b, .none⟩], []⟩, ⟨[], []⟩⟩)

/-! ### Attention and notices -/

/-- STATUS READ (R205) reports and changes nothing. ATTENTION READ (R202, R204) takes the highest entry of the sender's
set: an edge or a notice leaves it, a level entry stays, the other sets are kept. Both are taken during the store load.
NOTICE POST (R203): a target outside 1 to 3 or the sender itself is refused; an empty slot is filled at the end of the
order, a full one takes the new code, counts the merge and keeps its place. -/
def Obligations.AttentionAndNoticesAreDelivered : Prop :=
  (∀ (r : Req) (s : State), s.running = true → (s.ports.get r.port).held = false → r.len = 0 →
     exec (.statusRead r) s = .next (s.reply r.port ⟨.ok, .status s.rackTime
       (s.bays.get .a).ctx.state (s.bays.get .a).ctx.phase (s.bays.get .b).ctx.state (s.bays.get .b).ctx.phase
       s.store.state s.cal.uncal s.odc.screen s.vlg.log.length s.vlg.reservations.length s.vlg.threshold
       s.monitor.queue.length s.monitor.drops⟩)) ∧
  (∀ (r : Req) (s : State), s.running = true → (s.ports.get r.port).held = false → r.len = 0 →
     (s.attention r.port = [] → exec (.attentionRead r) s = .next (s.reply r.port ⟨.empty, .none⟩)) ∧
     (∀ e l, s.attention r.port = e :: l → ∃ t : State,
       exec (.attentionRead r) s = .next (t.reply r.port ⟨.ok, .attention e (t.attention r.port).length⟩) ∧
       t = { s with attn := t.attn } ∧
       t.attention r.port = (if e = .log ∨ e = .monitor then e :: l else l) ∧
       ∀ m, m ≠ r.port → t.attn.get m = s.attn.get m)) ∧
  (∀ (r : Req) (target code : Byte) (s : State), Admitted r .anyPort false s → r.len = 2 →
     ((∀ m, m ≠ r.port → target ≠ noticeCode m) →
       exec (.noticePost r target code) s = .next (s.reply r.port ⟨.range, .none⟩)) ∧
     (∀ m, target = noticeCode m → m ≠ r.port →
       let x := s.attn.get m
       ((∀ n ∈ x.notices, n.sender ≠ r.port) →
         exec (.noticePost r target code) s = .next
           ({ s with attn := s.attn.set m { x with notices := x.notices ++ [Notice.mk r.port code 0] } }.reply r.port
             ⟨.ok, .merged 0⟩)) ∧
       (∀ before n after, x.notices = before ++ n :: after → n.sender = r.port →
         (∀ k ∈ before ++ after, k.sender ≠ r.port) →
         exec (.noticePost r target code) s = .next
           ({ s with attn := s.attn.set m { x with
               notices := before ++ Notice.mk r.port code (if n.merged < 255 then n.merged + 1 else n.merged) :: after } }.reply
             r.port ⟨.ok, .merged (if n.merged < 255 then n.merged + 1 else n.merged)⟩))))

/-! ### Bays -/

/-- CLAMP and CONTACT (R6, R9, R10): taken in LOADED with the interlock closed and no emergency, and in CLAMPED; the bay
passes on at once when the input already stands at its level, else it waits with the feedback timer. -/
def Obligations.ClampAndContactStartTheirWaits : Prop :=
  (∀ (r : Req) (s : State), Admitted r .anyPort true s → r.len = 0 → Table.wf {} s.sources →
    s.bayState r.bay = .loaded → (s.inputs.get r.bay).interlockOk = true → s.emergency = false →
    let x := s.bays.get r.bay
    ((s.inputs.get r.bay).clampClosed = true → ∃ t : State,
      exec (.clamp r) s = .next (t.reply r.port ⟨.ok, .bay .clamped none x.ctx.unitSeq⟩) ∧
      BayMove (some r.port) r.bay
        { x with ctx := { x.ctx with state := .clamped, phase := none }, out := ⟨true, false, false⟩, timer := none } s t) ∧
    ((s.inputs.get r.bay).clampClosed = false → (s.setups.get r.bay).clampTimeout ≠ 0 → ∃ t : State,
      exec (.clamp r) s = .next (t.reply r.port ⟨.accepted, .bay .clamping none x.ctx.unitSeq⟩) ∧
      BayMove (some r.port) r.bay
        { x with
          ctx := { x.ctx with state := .clamping, phase := none }, out := ⟨true, false, false⟩
          timer := some ⟨s.rackTime + BitVec.ofNat 32 (s.setups.get r.bay).clampTimeout, .clampFeedback⟩ } s t)) ∧
  (∀ (r : Req) (s : State), Admitted r .anyPort true s → r.len = 0 → Table.wf {} s.sources →
    s.bayState r.bay = .clamped →
    let x := s.bays.get r.bay
    ((s.inputs.get r.bay).contactMade = true → ∃ t : State,
      exec (.contact r) s = .next (t.reply r.port ⟨.ok, .bay .contacted none x.ctx.unitSeq⟩) ∧
      BayMove (some r.port) r.bay
        { x with ctx := { x.ctx with state := .contacted, phase := none }, out := ⟨true, true, false⟩, timer := none } s t) ∧
    ((s.inputs.get r.bay).contactMade = false → (s.setups.get r.bay).contactTimeout ≠ 0 → ∃ t : State,
      exec (.contact r) s = .next (t.reply r.port ⟨.accepted, .bay .contacting none x.ctx.unitSeq⟩) ∧
      BayMove (some r.port) r.bay
        { x with
          ctx := { x.ctx with state := .contacting, phase := none }, out := ⟨true, true, false⟩
          timer := some ⟨s.rackTime + BitVec.ofNat 32 (s.setups.get r.bay).contactTimeout, .contactFeedback⟩ } s t))

/-- POWER and the end of the power settle period (R11, R62): POWERING with the timer, or POWERED with the port in
service when the period is 0; the expiry gives POWERED. The accrual time and the idle line that `InService` gives the
port are the model's (notes/assumptions/35.md, 8.md). -/
def Obligations.PowerBringsThePortUp : Prop :=
  (∀ (r : Req) (s : State), Admitted r .anyPort true s → r.len = 0 → Table.wf {} s.sources → Table.wf {} s.frames →
    Table.wf {} (s.nets.get r.bay).runtime → (s.nets.get r.bay).queues = {} → s.bayState r.bay = .contacted →
    let x := s.bays.get r.bay
    ((s.setups.get r.bay).powerSettle ≠ 0 → ∃ t : State,
      exec (.power r) s = .next (t.reply r.port ⟨.accepted, .bay .powering none x.ctx.unitSeq⟩) ∧
      BayMove (some r.port) r.bay
        { x with
          ctx := { x.ctx with state := .powering, phase := none }, out := ⟨true, true, true⟩
          timer := some ⟨s.rackTime + BitVec.ofNat 32 (s.setups.get r.bay).powerSettle, .powerSettle⟩ } s t) ∧
    ((s.setups.get r.bay).powerSettle = 0 → ∃ (t : State) (n : Net),
      exec (.power r) s = .next ((t.setNet r.bay n).reply r.port ⟨.ok, .bay .powered none x.ctx.unitSeq⟩) ∧
      BayMove (some r.port) r.bay
        { x with ctx := { x.ctx with state := .powered, phase := none }, out := ⟨true, true, true⟩, timer := none } s t ∧
      InService s r.bay (s.nets.get r.bay) n)) ∧
  (∀ (bay : Bay) (s : State) (e : Time), s.running = true → Table.wf {} s.sources → Table.wf {} s.frames →
    Table.wf {} (s.nets.get bay).runtime → (s.nets.get bay).queues = {} → s.bayState bay = .powering →
    (s.bays.get bay).timer = some ⟨e, .powerSettle⟩ → reached s.rackTime e = true →
    let x := s.bays.get bay
    ∃ (t : State) (n : Net), exec (.fixtureTimerExpiry bay) s = .next (t.setNet bay n) ∧
      BayMove none bay
        { x with ctx := { x.ctx with state := .powered, phase := none }, out := ⟨true, true, true⟩, timer := none } s t ∧
      InService s bay (s.nets.get bay) n)

/-- START (R12, R29, R63, R91): the unit record begins, the UNIT reservation is taken, the pinned responses are reset,
the RUN entries are scheduled, and the bay is TESTING; a bad serial is refused RANGE, a full log FULL. -/
def Obligations.StartBeginsAUnit : Prop :=
  ∀ (r : Req) (o : StartOps) (s : State), Admitted r .anyPort true s →
    r.len.toNat = 4 + o.serialLen.toNat → o.serial.length = o.serialLen.toNat → s.bayState r.bay = .powered →
    let x := s.bays.get r.bay
    let p := s.setups.get r.bay
    let good := 1 ≤ o.serial.length ∧ o.serial.length ≤ 20 ∧ ∀ c ∈ o.serial, 0x20 ≤ c.toNat ∧ c.toNat ≤ 0x7E
    (¬ good → exec (.start r o) s = .next (s.reply r.port ⟨.range, .none⟩)) ∧
    (good → 128 ≤ s.vlg.log.length + s.vlg.reservations.length →
      exec (.start r o) s = .next (s.reply r.port ⟨.full, .none⟩)) ∧
    (good → s.vlg.log.length + s.vlg.reservations.length < 128 → Table.wf {} s.sources → Table.wf {} s.frames →
      Table.wf {} (s.nets.get r.bay).runtime → Table.wf none s.responses → ∃ t : State,
      exec (.start r o) s = .next (t.reply r.port ⟨.ok, .bay .testing none (x.ctx.unitSeq + 1)⟩) ∧
      t = { s with
        bays := s.bays.set r.bay
          { x with
            ctx := { x.ctx with
              state := .testing, phase := none, serial := some o.serial, planTag := some o.planTag
              unitSeq := x.ctx.unitSeq + 1, startTime := some s.rackTime
              policy := ⟨o.marginalFails.getD p.marginalFails, o.unknownFails.getD p.unknownFails,
                o.operatorAbort.getD p.operatorAbort⟩
              counts := ⟨0, 0, 0, 0⟩, unknownSeen := false, uncal := false, unitVerdict := none, unitOwed := true }
            out := ⟨true, true, true⟩, lamp := .busy, timer := none }
        vlg := { s.vlg with
          reservations := s.vlg.reservations ++ [.unit r.bay], stepsWritten := s.vlg.stepsWritten.set r.bay 0 }
        sources := t.sources, attn := t.attn, responses := t.responses
        nets := s.nets.set r.bay { s.nets.get r.bay with runtime := (t.nets.get r.bay).runtime } } ∧
      Reparked s t ∧ Raised (BayStateTold (some r.port) r.bay) s t ∧
      (∀ i, t.respAt i = match s.respAt i with
        | some q => if q.bay = r.bay ∧ q.expectation ≠ none then
            some ⟨q.bay, q.ident, q.expectation, none, 0, none, 0⟩ else some q
        | none => none) ∧
      ∀ i, (t.nets.get r.bay).rt i = { (s.nets.get r.bay).rt i with
        nextDue := if (s.frame i).valid ∧ (s.frame i).hasMember r.bay ∧ (s.frame i).gate ≠ 0 ∧ 0 < (s.frame i).period
          then some (s.rackTime + BitVec.ofNat 32 (s.frame i).phase) else ((s.nets.get r.bay).rt i).nextDue })

/-- The bay requests outside the states that take them are refused STATE with the present state and phase (R7, R9 to
R15, R23, R30), and nothing changes. -/
def Obligations.BayRequestsOutsideTheirStates : Prop :=
  ∀ (r : Req) (o : StartOps) (p : SetupOps) (s : State), Admitted r .anyPort true s → r.len = 0 →
    let st := s.bayState r.bay
    let refused := fun i => exec i s =
      .next (s.reply r.port ⟨.state, .refusedState st (s.bays.get r.bay).ctx.phase⟩)
    (¬ (st = .loaded ∧ (s.inputs.get r.bay).interlockOk = true ∧ s.emergency = false) → refused (.clamp r)) ∧
    (st ≠ .clamped → refused (.contact r)) ∧
    (st ≠ .contacted → refused (.power r)) ∧
    (st ≠ .testing → refused (.finish r)) ∧
    (st ≠ .clamped → st ≠ .contacted → st ≠ .powered → refused (.unload r)) ∧
    (st = .vacant ∨ st = .loaded ∨ st = .closing ∨ st = .safe → refused (.abort r)) ∧
    (¬ (st = .safe ∧ (s.inputs.get r.bay).interlockOk = true ∧ s.emergency = false) → refused (.release r)) ∧
    (st ≠ .powered → o.serial.length = o.serialLen.toNat → o.serialLen.toNat < 200 →
      refused (.start { r with len := BitVec.ofNat 8 (4 + o.serialLen.toNat) } o)) ∧
    (st ≠ .vacant → st ≠ .loaded → r.port = .ssv → refused (.baySetupWrite { r with len := 34 } p))

/-- FINISH (R13, R26, R27, R28): refused BUSY while the bay's own measurement is in flight; otherwise the unit verdict
follows the counts and the policy, the UNIT record is written and counted (R142, R154), the lamp shows the verdict, and
the bay is torn down and enters CLOSING, which may end at once (R5, R6, R16). That the answer carries this verdict where the
bay has reached VACANT already is the model's reading (notes/assumptions/19.md). -/
def Obligations.FinishEndsTheUnit : Prop :=
  ∀ (r : Req) (s : State), Admitted r .anyPort true s → r.len = 0 → s.bayState r.bay = .testing →
    let x := s.bays.get r.bay
    let v : UnitVerdict :=
      if 0 < x.ctx.counts.fail + x.ctx.counts.error ∨ (x.ctx.policy.marginalFails = true ∧ 0 < x.ctx.counts.marginal) ∨
        (x.ctx.policy.unknownFails = true ∧ x.ctx.unknownSeen = true) then .fail
      else if 0 < x.ctx.counts.marginal then .passMarginal else .pass
    let l : Lamp := match v with
      | .pass => .pass
      | .passMarginal => .passMarginal
      | .fail => .fail
      | .aborted => .aborted
    (s.measuring (sequencer r.bay) = true → exec (.finish r) s = .next (s.reply r.port ⟨.busy, .none⟩)) ∧
    (s.measuring (sequencer r.bay) = false → Table.wf {} s.sources → OwnRoutes r.bay s →
      Table.wf {} (s.nets.get r.bay).runtime → Table.wf none s.responses → s.meu.waiters.Nodup → ∃ t : State,
      exec (.finish r) s = .next (t.reply r.port ⟨statusOf (t.bayState r.bay),
        .finished (t.bayState r.bay) (t.bays.get r.bay).ctx.phase x.ctx.unitSeq v x.ctx.counts⟩) ∧
      ClosingEntered (some r.port) r.bay .powerDown
        { x with ctx := { x.ctx with unitVerdict := some v, unitOwed := false }, lamp := l } s t ∧
      TornDown r.bay s t ∧
      t.vlg.log = s.vlg.log ++ [.unit
        { bay := r.bay, unitSeq := x.ctx.unitSeq, serial := x.ctx.serial.getD [], planTag := x.ctx.planTag.getD 0
          verdict := v, counts := x.ctx.counts, duration := s.rackTime - x.ctx.startTime.getD s.rackTime
          cause := none, uncal := x.ctx.uncal, unknown := x.ctx.unknownSeen, time := s.rackTime }])

/-- UNLOAD, and ABORT outside TESTING by request and by the operator key (R14, R15, R16, R187): CLOSING at the phase that
fits, which may end at once in LOADED, VACANT, a later phase or SAFE (R5, R6); no record and no unit counted, verdict and
lamp kept; from POWERED the bay is torn down. -/
def Obligations.WithdrawalsEnterClosing : Prop :=
  ∀ (r : Req) (s : State) (phase : Phase), Table.wf {} s.sources → Table.wf none s.responses → OwnRoutes r.bay s →
    let x := s.bays.get r.bay
    let st := s.bayState r.bay
    let answer := fun t : State => (⟨statusOf (t.bayState r.bay),
      .bay (t.bayState r.bay) (t.bays.get r.bay).ctx.phase x.ctx.unitSeq⟩ : Answer)
    let left := fun (requester : Option Master) (t : State) =>
      ClosingEntered requester r.bay phase x s t ∧ t.vlg.log = s.vlg.log ∧
      (st = .powered → Table.wf {} (s.nets.get r.bay).runtime → s.meu.waiters.Nodup → TornDown r.bay s t)
    let aborts := ((st = .clamping ∨ st = .clamped) ∧ phase = .unclamp) ∨
      ((st = .contacting ∨ st = .contacted) ∧ phase = .retract) ∨
      ((st = .powering ∨ st = .powered) ∧ phase = .powerDown)
    (Admitted r .anyPort true s → r.len = 0 →
      ((st = .clamped ∧ phase = .unclamp) ∨ (st = .contacted ∧ phase = .retract) ∨ (st = .powered ∧ phase = .powerDown) →
        ∃ t : State, exec (.unload r) s = .next (t.reply r.port (answer t)) ∧ left (some r.port) t) ∧
      (aborts → ∃ t : State, exec (.abort r) s = .next (t.reply r.port (answer t)) ∧ left (some r.port) t)) ∧
    (s.running = true → aborts → ∃ t : State, exec (.abortKey r.bay) s = .next t ∧ left none t)

/-- ABORT in TESTING, by request and by the operator key with *operator_abort* set (R15, R187, R8): the unit ends
ABORTED with its record, its statistics (R142, R154) and its lamp, and the bay is torn down and enters CLOSING, which may
end at once; the key is reported to both masters. That the answer carries ABORTED where the bay has reached VACANT already is
the model's reading (notes/assumptions/19.md). -/
def Obligations.AbortEndsTheUnitAborted : Prop :=
  ∀ (r : Req) (s : State), s.bayState r.bay = .testing → Table.wf {} s.sources → OwnRoutes r.bay s →
    Table.wf {} (s.nets.get r.bay).runtime → Table.wf none s.responses → s.meu.waiters.Nodup →
    let x := s.bays.get r.bay
    let left := fun (requester : Option Master) (t : State) =>
      ClosingEntered requester r.bay .powerDown
        { x with ctx := { x.ctx with unitVerdict := some .aborted, unitOwed := false }, lamp := .aborted } s t ∧
      TornDown r.bay s t ∧
      t.vlg.log = s.vlg.log ++ [.unit
        { bay := r.bay, unitSeq := x.ctx.unitSeq, serial := x.ctx.serial.getD [], planTag := x.ctx.planTag.getD 0
          verdict := .aborted, counts := x.ctx.counts, duration := s.rackTime - x.ctx.startTime.getD s.rackTime
          cause := none, uncal := x.ctx.uncal, unknown := x.ctx.unknownSeen, time := s.rackTime }]
    (Admitted r .anyPort true s → r.len = 0 → ∃ t : State, exec (.abort r) s = .next (t.reply r.port
      ⟨statusOf (t.bayState r.bay),
        .abortedUnit (t.bayState r.bay) (t.bays.get r.bay).ctx.phase x.ctx.unitSeq .aborted⟩) ∧ left (some r.port) t) ∧
    (s.running = true → x.ctx.policy.operatorAbort = true → ∃ t : State,
      exec (.abortKey r.bay) s = .next t ∧ left none t)

/-- RELEASE (R23, R28, R175): taken in SAFE with the interlock closed and no emergency; by the CLAMP output the bay goes
to CLAMPING or CLAMPED, or opens to LOADED or VACANT; the lamp shows the unit verdict and the window comes back. -/
def Obligations.ReleaseLeavesSafe : Prop :=
  ∀ (r : Req) (s : State), Admitted r .anyPort true s → r.len = 0 → Table.wf {} s.sources →
    s.bayState r.bay = .safe → (s.inputs.get r.bay).interlockOk = true → s.emergency = false →
    (s.setups.get r.bay).clampTimeout ≠ 0 →
    let x := s.bays.get r.bay
    let i := s.inputs.get r.bay
    let st : BayState :=
      if x.out.clamp then (if i.clampClosed then .clamped else .clamping)
      else if i.unitPresent then .loaded else .vacant
    let lamp : Lamp := match x.ctx.unitVerdict with
      | none => .off
      | some .pass => .pass
      | some .passMarginal => .passMarginal
      | some .fail => .fail
      | some .aborted => .aborted
    ∃ t : State,
      exec (.release r) s = .next (t.reply r.port
        ⟨if st = .clamping then .accepted else .ok, .bay st none x.ctx.unitSeq⟩) ∧
      t = { s with
        bays := t.bays, sources := t.sources, routes := t.routes, windows := t.windows, attn := t.attn } ∧
      t.bays = s.bays.set r.bay { x with
        ctx := { x.ctx with
          state := st, phase := none, safeCause := none
          unitVerdict := if st = .vacant then none else x.ctx.unitVerdict }
        out := ⟨x.out.clamp, false, false⟩, lamp := if st = .vacant then .off else lamp
        timer := if st = .clamping then
          some ⟨s.rackTime + BitVec.ofNat 32 (s.setups.get r.bay).clampTimeout, .clampFeedback⟩ else none } ∧
      t.windows = s.windows.set r.bay { s.windows.get r.bay with
        start := (s.windows.get r.bay).savedStart.getD (s.windows.get r.bay).start, savedStart := none
        safeBlink := false } ∧
      (st ≠ .vacant → t.routes = s.routes ∧ Reparked s t) ∧ (st = .vacant → ClaimsEnded r.bay s t) ∧
      Raised (BayStateTold (some r.port) r.bay) s t

/-- BAY RESET (R8, R24, R29, R39, R175): from every state the bay opens with its outputs off; a running unit ends ABORTED
with cause BAY_RESET and is counted (R142, R154); every block flushes what it holds for the bay, and the bay's sources are FREE or *freeing*; BAY_STATE
is told where the state changes, and SAFE is not raised. -/
def Obligations.BayResetOpensTheBay : Prop :=
  ∀ (r : Req) (s : State), Admitted r .anyPort true s → r.len = 0 → Table.wf {} s.sources → OwnRoutes r.bay s →
    Table.wf none s.responses →
    let x := s.bays.get r.bay
    let st : BayState := if (s.inputs.get r.bay).unitPresent then .loaded else .vacant
    ∃ t : State,
      exec (.bayReset r) s = .next (t.reply r.port ⟨.ok, .bay st none x.ctx.unitSeq⟩) ∧ BayEventFrame s t ∧
      t.bays = s.bays.set r.bay { x with
        ctx := { x.ctx with
          state := st, phase := none, safeCause := none
          unitVerdict := if st = .vacant then none else if x.ctx.state = .testing then some .aborted else x.ctx.unitVerdict
          unitOwed := if x.ctx.state = .testing then false else x.ctx.unitOwed }
        out := ⟨false, false, false⟩, lamp := .off, timer := none } ∧
      t.vlg.log = s.vlg.log ++ (if x.ctx.state = .testing then
        [.unit { bay := r.bay, unitSeq := x.ctx.unitSeq, serial := x.ctx.serial.getD [], planTag := x.ctx.planTag.getD 0
                 verdict := .aborted, counts := x.ctx.counts, duration := s.rackTime - x.ctx.startTime.getD s.rackTime
                 cause := some .bayReset, uncal := x.ctx.uncal, unknown := x.ctx.unknownSeen, time := s.rackTime }]
        else []) ∧
      (x.ctx.state = .powered ∨ x.ctx.state = .testing → Table.wf {} (s.nets.get r.bay).runtime →
        s.meu.waiters.Nodup → TornDown r.bay s t) ∧
      (t.prus.get r.bay).front = .empty ∧ (t.prus.get r.bay).waiting = [] ∧
      RoutesOpened r.bay s t ∧ Unlearned r.bay s t ∧ StationAborted r.bay s t ∧
      BayStateRaised (some r.port) r.bay s t ∧ NothingTaken s t ∧
      (∀ m bay, ⟨.safe, some bay, .none⟩ ∈ (t.attn.get m).edges → ⟨.safe, some bay, .none⟩ ∈ (s.attn.get m).edges) ∧
      ClaimsEnded r.bay s t ∧
      t.windows.get r.bay = { s.windows.get r.bay with
        start := if x.ctx.state = .safe then (s.windows.get r.bay).savedStart.getD (s.windows.get r.bay).start
          else (s.windows.get r.bay).start
        savedStart := if x.ctx.state = .safe then none else (s.windows.get r.bay).savedStart
        promptBlink := false, safeBlink := false } ∧
      Counted r.bay (if x.ctx.state = .testing then some .aborted else none) False s t

/-- BAY SETUP WRITE, BAY SETUP READ and BAY READ (R30, R31): a bit rate outside its set is refused, every scalar is
stored at the nearer bound, and the reads report what is stored. -/
def Obligations.BaySetupIsStoredClamped : Prop :=
  ∀ (r : Req) (o : SetupOps) (s : State), Admitted r .anyPort true s →
    let rateOk := o.bitRate = 125 ∨ o.bitRate = 250 ∨ o.bitRate = 500 ∨ o.bitRate = 1000
    let p : Setup :=
      { clampTimeout := bounded 100 5000 o.clampTimeout.toNat, contactTimeout := bounded 100 5000 o.contactTimeout.toNat
        powerSettle := bounded 0 2000 o.powerSettle.toNat, powerOffSettle := bounded 0 2000 o.powerOffSettle.toNat
        reservedPins := o.reservedPins, bitRate := o.bitRate.toNat, loadLimit := bounded 10 100 o.loadLimit.toNat
        bucketDepth := bounded 200 20000 o.bucketDepth.toNat, w2 := bounded 1 15 o.w2.toNat
        w1 := bounded 1 15 o.w1.toNat, w0 := bounded 1 15 o.w0.toNat, retryLimit := bounded 0 7 o.retryLimit.toNat
        ageLimit := bounded 100 60000 o.ageLimit.toNat, holdLimit := bounded 10 5000 o.holdLimit.toNat
        alertPage := bounded 0 799 o.alertPage.toNat, mirrorTx := o.mirrorTx ≠ 0, mirrorRx := o.mirrorRx ≠ 0
        marginalFails := o.marginalFails ≠ 0, unknownFails := o.unknownFails ≠ 0, operatorAbort := o.operatorAbort ≠ 0 }
    (r.len = 34 → r.port = .ssv → s.bayState r.bay = .vacant ∨ s.bayState r.bay = .loaded →
      (¬ rateOk → exec (.baySetupWrite r o) s = .next (s.reply r.port ⟨.range, .none⟩)) ∧
      (rateOk → exec (.baySetupWrite r o) s =
        .next ({ s with setups := s.setups.set r.bay p }.reply r.port ⟨.ok, .setup p⟩))) ∧
    (r.len = 0 →
      exec (.baySetupRead r) s = .next (s.reply r.port ⟨.ok, .setup (s.setups.get r.bay)⟩) ∧
      exec (.bayRead r) s = .next (s.reply r.port ⟨.ok, .bayRead (s.bays.get r.bay).ctx (s.inputs.get r.bay) s.emergency
        (s.bays.get r.bay).out (s.bays.get r.bay).lamp⟩))

/-- Rising inputs, and falls that a bay waits for (R16 to R20): the level is taken, and the bay moves where the rule
sends it; in the states that R17 to R20 do not name a fall leaves the bay as it is. Entry to VACANT leaves no unit verdict
and the lamp OFF and ends the bay's source claims (R17, R28, R39). -/
def Obligations.AwaitedEdgesMoveTheBay : Prop :=
  (∀ (bay : Bay) (s : State), s.running = true → Table.wf {} s.sources →
     let x := s.bays.get bay
     let i := s.inputs.get bay
     let st := s.bayState bay
     let at_ := fun (y : BayState) (o : Outputs) => { x with ctx := { x.ctx with state := y, phase := none }, out := o, timer := none }
     let seen := fun (j : Inputs) => { s with inputs := s.inputs.set bay j }
     (st = .vacant → ∃ t : State, exec (.unitPresentRising bay) s = .next t ∧
       BayMove none bay (at_ .loaded ⟨false, false, false⟩) (seen { i with unitPresent := true }) t) ∧
     (st ≠ .vacant → exec (.unitPresentRising bay) s = .next (seen { i with unitPresent := true })) ∧
     (st = .clamping → ∃ t : State, exec (.clampClosedRising bay) s = .next t ∧
       BayMove none bay (at_ .clamped ⟨true, false, false⟩) (seen { i with clampClosed := true }) t) ∧
     (st ≠ .clamping → exec (.clampClosedRising bay) s = .next (seen { i with clampClosed := true })) ∧
     (st = .contacting → ∃ t : State, exec (.contactMadeRising bay) s = .next t ∧
       BayMove none bay (at_ .contacted ⟨true, true, false⟩) (seen { i with contactMade := true }) t) ∧
     (st ≠ .contacting → exec (.contactMadeRising bay) s = .next (seen { i with contactMade := true })) ∧
     exec (.interlockOkRising bay) s = .next (seen { i with interlockOk := true }) ∧
     (st = .vacant ∨ st = .safe → exec (.unitPresentFalling bay) s = .next (seen { i with unitPresent := false })) ∧
     (st = .vacant ∨ st = .loaded ∨ st = .clamping ∨ st = .safe →
       exec (.clampClosedFalling bay) s = .next (seen { i with clampClosed := false })) ∧
     (st = .vacant ∨ st = .loaded ∨ st = .clamping ∨ st = .clamped ∨ st = .contacting ∨ st = .safe ∨
         (st = .closing ∧ x.ctx.phase = some .unclamp) →
       exec (.contactMadeFalling bay) s = .next (seen { i with contactMade := false })) ∧
     (st = .vacant ∨ st = .loaded ∨ st = .safe →
       exec (.interlockOkFalling bay) s = .next (seen { i with interlockOk := false })) ∧
     exec .emergencyInactive s = .next { s with emergency := false } ∧
     (st = .closing → x.ctx.phase = some .retract → i.clampClosed = true → (s.setups.get bay).clampTimeout ≠ 0 →
       ∃ t : State, exec (.contactMadeFalling bay) s = .next t ∧
         t = { seen { i with contactMade := false } with bays := t.bays, sources := t.sources } ∧ Reparked s t ∧
         t.bays = s.bays.set bay { x with
           ctx := { x.ctx with phase := some .unclamp }, out := ⟨false, false, false⟩
           timer := some ⟨s.rackTime + BitVec.ofNat 32 (s.setups.get bay).clampTimeout, .clampRelease⟩ }) ∧
     (st = .closing → x.ctx.phase = some .unclamp → i.unitPresent = true →
       ∃ t : State, exec (.clampClosedFalling bay) s = .next t ∧
         BayMove none bay (at_ .loaded ⟨false, false, false⟩) (seen { i with clampClosed := false }) t) ∧
     (∀ e, x.timer = some ⟨e, .powerOffSettle⟩ → reached s.rackTime e = true → st = .closing → i.contactMade = true →
       (s.setups.get bay).contactTimeout ≠ 0 → ∃ t : State, exec (.fixtureTimerExpiry bay) s = .next t ∧
         t = { s with bays := t.bays, sources := t.sources } ∧ Reparked s t ∧
         t.bays = s.bays.set bay { x with
           ctx := { x.ctx with phase := some .retract }, out := ⟨true, false, false⟩
           timer := some ⟨s.rackTime + BitVec.ofNat 32 (s.setups.get bay).contactTimeout, .contactRelease⟩ })) ∧
  (∀ (bay : Bay) (s : State), s.running = true → Table.wf {} s.sources →
     let x := s.bays.get bay
     let i := s.inputs.get bay
     let left := fun t : State => t.bays = s.bays.set bay { x with
         ctx := { x.ctx with state := .vacant, phase := none, unitVerdict := none }
         out := ⟨false, false, false⟩, lamp := .off, timer := none } ∧
       ClaimsEnded bay s t ∧ Raised (BayStateTold none bay) s t
     (s.bayState bay = .loaded → ∃ t : State, exec (.unitPresentFalling bay) s = .next t ∧
       t = { s with
         inputs := s.inputs.set bay { i with unitPresent := false }, bays := t.bays, sources := t.sources
         routes := t.routes, attn := t.attn } ∧ left t) ∧
     (s.bayState bay = .closing → x.ctx.phase = some .unclamp → i.unitPresent = false →
       ∃ t : State, exec (.clampClosedFalling bay) s = .next t ∧
         t = { s with
           inputs := s.inputs.set bay { i with clampClosed := false }, bays := t.bays, sources := t.sources
           routes := t.routes, attn := t.attn } ∧ left t))

/-- A lost unit, clamp or contact, an open interlock, EMERGENCY and the expiry of a feedback wait enter SAFE with their
cause and the teardown of the bay in the other blocks (R5, R17 to R21, R29). EMERGENCY reaches each bay that is in CLAMPING
to CLOSING. In SAFE no fixture input and no EMERGENCY change moves the bay (R22). -/
def Obligations.SafetyEventsEnterSafe : Prop :=
  (∀ (bay : Bay) (s : State), s.running = true → Table.wf {} s.sources → Table.wf none s.responses →
     (∀ y, Table.wf {} (s.nets.get y).runtime) → s.meu.waiters.Nodup →
     let x := s.bays.get bay
     let i := s.inputs.get bay
     let st := s.bayState bay
     let seen := fun (j : Inputs) => { s with inputs := s.inputs.set bay j }
     (st.inFixture → ∃ t : State, exec (.unitPresentFalling bay) s = .next t ∧
       SafeEntered none bay .unitLost (seen { i with unitPresent := false }) t) ∧
     (st = .clamped ∨ st = .contacting ∨ st = .contacted ∨ st = .powering ∨ st = .powered ∨ st = .testing ∨
         (st = .closing ∧ (x.ctx.phase = some .powerDown ∨ x.ctx.phase = some .retract)) →
       ∃ t : State, exec (.clampClosedFalling bay) s = .next t ∧
         SafeEntered none bay .clampLost (seen { i with clampClosed := false }) t) ∧
     (st = .contacted ∨ st = .powering ∨ st = .powered ∨ st = .testing ∨
         (st = .closing ∧ x.ctx.phase = some .powerDown) → ∃ t : State, exec (.contactMadeFalling bay) s = .next t ∧
       SafeEntered none bay .contactLost (seen { i with contactMade := false }) t) ∧
     (st.inFixture → ∃ t : State, exec (.interlockOkFalling bay) s = .next t ∧
       SafeEntered none bay .interlock (seen { i with interlockOk := false }) t) ∧
     (st.inFixture → ∃ u t : State, exec (.emergencyActive bay) s = .next t ∧
       SafeEntered none bay .emergency { s with emergency := true } u ∧
       ((s.bayState (otherBay bay)).inFixture → SafeEntered none (otherBay bay) .emergency u t) ∧
       (¬ (s.bayState (otherBay bay)).inFixture → t = u)) ∧
     (¬ st.inFixture → (s.bayState (otherBay bay)).inFixture → ∃ t : State, exec (.emergencyActive bay) s = .next t ∧
       SafeEntered none (otherBay bay) .emergency { s with emergency := true } t) ∧
     (¬ st.inFixture → ¬ (s.bayState (otherBay bay)).inFixture →
       exec (.emergencyActive bay) s = .next { s with emergency := true }) ∧
     (∀ e p, st.inFixture → x.timer = some ⟨e, p⟩ → reached s.rackTime e = true → p ≠ .powerSettle → p ≠ .powerOffSettle →
       ∃ t : State, exec (.fixtureTimerExpiry bay) s = .next t ∧ SafeEntered none bay .fixtureTimeout s t)) ∧
  (∀ (i : Instr) (bay : Bay) (s t : State), s.bayState bay = .safe → exec i s = .next t →
     i ∈ [.unitPresentRising bay, .unitPresentFalling bay, .clampClosedRising bay, .clampClosedFalling bay,
       .contactMadeRising bay, .contactMadeFalling bay, .interlockOkFalling bay, .interlockOkRising bay,
       .emergencyActive bay, .emergencyActive (otherBay bay), .emergencyInactive] →
     t.bays.get bay = s.bays.get bay ∧ t.stat bay .safeEntries = s.stat bay .safeEntries)

/-! ### Sources and routes -/

/-- SOURCE CLAIM, SOURCE FREE and SOURCE READ by their rules (R36, R37, R38, R52): the read gives kind, owner or FREEING,
the programmed setting by the kind, *parked*, the range flag and the routes with their states. -/
def Obligations.SourceClaimsFollowTheTable : Prop :=
  (∀ (r : Req) (source : Byte) (s : State), Admitted r .anyPort true s → r.len = 1 → Table.wf {} s.sources →
     (s.bayState r.bay = .safe → exec (.sourceClaim r source) s = .next (s.reply r.port ⟨.state, .none⟩)) ∧
     (8 ≤ source.toNat →
       (s.bayState r.bay ≠ .safe → exec (.sourceClaim r source) s = .next (s.reply r.port ⟨.range, .none⟩)) ∧
       exec (.sourceFree r source) s = .next (s.reply r.port ⟨.range, .none⟩)) ∧
     ∀ i : Fin 8, source.toNat = i.val →
       let x := s.source i
       (s.bayState r.bay ≠ .safe →
         (x.owner = none → ∃ t : State, exec (.sourceClaim r source) s = .next (t.reply r.port ⟨.ok, .none⟩) ∧
           t = { s with sources := t.sources } ∧ (t.source i).owner = some r.bay ∧
           Reparked (s.setSource i { x with owner := some r.bay }) t) ∧
         (x.owner = some r.bay → x.freeing = false →
           exec (.sourceClaim r source) s = .next (s.reply r.port ⟨.ok, .none⟩)) ∧
         (x.owner = some r.bay → x.freeing = true →
           exec (.sourceClaim r source) s = .next (s.reply r.port ⟨.busy, .none⟩)) ∧
         (x.owner = some (otherBay r.bay) →
           exec (.sourceClaim r source) s = .next (s.reply r.port ⟨.denied, .none⟩))) ∧
       (x.owner ≠ some r.bay → exec (.sourceFree r source) s = .next (s.reply r.port ⟨.denied, .none⟩)) ∧
       (x.owner = some r.bay → (∀ q ∈ s.routes, q.source ≠ i) → ∃ t : State,
         exec (.sourceFree r source) s = .next (t.reply r.port ⟨.ok, .none⟩) ∧ t = { s with sources := t.sources } ∧
         t.source i = ⟨none, false, .stopped, 0, 0, 500, 0, true, .none, none⟩ ∧
         ∀ j, j ≠ i → (t.source j).owner = (s.source j).owner ∧ (t.source j).freeing = (s.source j).freeing) ∧
       (x.owner = some r.bay → (∃ q ∈ s.routes, q.source = i) → x.freeing = false → ∃ t : State,
         exec (.sourceFree r source) s = .next (t.reply r.port ⟨.accepted, .none⟩) ∧
         t = { s with sources := t.sources, routes := t.routes } ∧
         (t.source i).owner = some r.bay ∧ (t.source i).freeing = true ∧
         t.routes = s.routes.map fun q => if q.source = i ∧ (∀ e, q.state ≠ .opening e) then
           { q with state := .opening (s.rackTime + 3) } else q) ∧
       (x.owner = some r.bay → (∃ q ∈ s.routes, q.source = i) → x.freeing = true → ∃ t : State,
         exec (.sourceFree r source) s = .next (t.reply r.port ⟨.accepted, .none⟩) ∧
         t = { s with sources := t.sources } ∧ Reparked s t)) ∧
  (∀ (r : Req) (source : Byte) (s : State), Admitted r .anyPort false s → r.len = 1 →
    (8 ≤ source.toNat → exec (.sourceRead r source) s = .next (s.reply r.port ⟨.range, .none⟩)) ∧
    ∀ i : Fin 8, source.toNat = i.val →
      let x := s.source i
      let owner : OwnerReport := match x.owner, x.freeing with
        | none, _ => .free
        | some _, true => .freeing
        | some .a, false => .a
        | some .b, false => .b
      let shown := fun q : Route => RouteReport.mk q.bay q.pin (match q.state with
        | .closing _ => .closing
        | .closed => .closed
        | .opening _ => .opening)
      exec (.sourceRead r source) s = .next (s.reply r.port ⟨.ok, .source (if i.val < 4 then .pulse else .level) owner
        (settingShown i x) x.parked x.rangeFlag ((s.routes.filter fun q => q.source = i).map shown)⟩))

/-- The programmed period of SET SPEED, SET RPM and SET FREQUENCY (R44 to R49): the operands clamped, the quotient
rounded, the limits of R49, the range flag, and the way to the output of R45. -/
def Obligations.PeriodsAreProgrammed : Prop :=
  ∀ (r : Req) (source : Byte) (v k : Half) (p : Byte) (f : Full) (i : Fin 8) (s : State),
    Admitted r .anyPort true s → Table.wf {} s.sources → source.toNat = i.val → i.val < 4 →
    (s.source i).owner = some r.bay → (s.source i).freeing = false →
    let x := s.source i
    let after := fun (y : Source) (echo : List Echo) =>
      Host.Outcome.next (ρ := Refusal) (φ := Fault) ((s.setSource i (taken x y)).reply r.port (settingAnswer i echo y))
    (r.len = 5 →
      let v' := bounded 0 40000 v.toNat
      let k' := bounded 100 65535 k.toNat
      let t := nearest 360000000000 (v' * k')
      let flag : RangeFlag := if 40000 < v.toNat then .aboveRange else if k.toNat < 100 then .belowRange else .none
      exec (.setSpeed r source v k) s = after (periodSet .speed (v' = 0) flag t (t / 2) x) [⟨2, v'⟩, ⟨2, k'⟩]) ∧
    (r.len = 4 →
      let v' := bounded 0 16000 v.toNat
      let p' := bounded 1 12 p.toNat
      let t := nearest 60000000 (v' * p')
      let flag : RangeFlag := if 16000 < v.toNat ∨ 12 < p.toNat then .aboveRange else if p.toNat < 1 then .belowRange
        else .none
      exec (.setRpm r source v p) s = after (periodSet .rpm (v' = 0) flag t (t / 2) x) [⟨2, v'⟩, ⟨1, p'⟩]) ∧
    (r.len = 5 →
      let f' := bounded 0 50000000 f.toNat
      let t := nearest 1000000000 f'
      let flag : RangeFlag := if 50000000 < f.toNat then .aboveRange else .none
      exec (.setFrequency r source f) s =
        after (if x.mode = .pwm then periodSet .pwm (f' = 0) flag t (nearest (t * x.duty) 1000) x
          else periodSet .frequency (f' = 0) flag t (t / 2) x) [⟨4, f'⟩])

/-- SET DUTY and SET LEVEL (R50, R51), and the checks of R44 before every setting: a source outside S0 to S7 is refused
RANGE, and of the other checks the first that fails gives the answer. That SET LEVEL echoes the level its code stands for,
the code times 4, is the model's reading (notes/assumptions/28.md). -/
def Obligations.DutiesAndLevelsAreProgrammed : Prop :=
  (∀ (r : Req) (source : Byte) (v k d : Half) (p : Byte) (f : Full) (s : State),
    Admitted r .anyPort true s → 8 ≤ source.toNat →
    let refused := fun i => exec i s = .next (s.reply r.port ⟨.range, .none⟩)
    (r.len = 5 → refused (.setSpeed r source v k) ∧ refused (.setFrequency r source f) ∧ refused (.setLevel r source f)) ∧
    (r.len = 4 → refused (.setRpm r source v p)) ∧ (r.len = 3 → refused (.setDuty r source d))) ∧
  ∀ (r : Req) (source : Byte) (d : Half) (mv : Full) (i : Fin 8) (s : State),
    Admitted r .anyPort true s → Table.wf {} s.sources → source.toNat = i.val →
    let x := s.source i
    let after := fun (y : Source) (echo : List Echo) =>
      Host.Outcome.next (ρ := Refusal) (φ := Fault) ((s.setSource i (taken x y)).reply r.port (settingAnswer i echo y))
    let checks : Bool → List (Prop × Status) := fun pulse =>
      [(x.owner = some r.bay, .denied), (x.freeing = false, .busy), ((pulse = true ↔ i.val < 4), .range)]
    (∀ st, FirstRefusal (checks true) st → ∀ (v k : Half) (p : Byte) (f : Full),
      (r.len = 5 → exec (.setSpeed r source v k) s = .next (s.reply r.port ⟨st, .none⟩) ∧
        exec (.setFrequency r source f) s = .next (s.reply r.port ⟨st, .none⟩)) ∧
      (r.len = 4 → exec (.setRpm r source v p) s = .next (s.reply r.port ⟨st, .none⟩)) ∧
      (r.len = 3 → exec (.setDuty r source d) s = .next (s.reply r.port ⟨st, .none⟩))) ∧
    (∀ st, FirstRefusal (checks false) st → r.len = 5 →
      exec (.setLevel r source mv) s = .next (s.reply r.port ⟨st, .none⟩)) ∧
    (AllPass (checks true) → r.len = 3 →
      (x.mode = .stopped → exec (.setDuty r source d) s = .next (s.reply r.port ⟨.state, .none⟩)) ∧
      (x.mode ≠ .stopped → let d' := bounded 0 1000 d.toNat
        exec (.setDuty r source d) s = after { x with
          mode := .pwm, duty := d', highTicks := nearest (x.periodTicks * d') 1000
          rangeFlag := if 1000 < d.toNat then .aboveRange else .none } [⟨2, d'⟩])) ∧
    (AllPass (checks false) → r.len = 5 → ∃ code : Nat, code ≤ 4000 ∧
      (mv.toInt < 2 → code = 0) ∧ (15998 ≤ mv.toInt → code = 4000) ∧
      (0 ≤ mv.toInt → mv.toInt ≤ 16000 → 4 * (code : Int) - 2 ≤ mv.toInt ∧ mv.toInt ≤ 4 * code + 1) ∧
      exec (.setLevel r source mv) s = after { x with
        levelCode := code
        rangeFlag := if 16000 < mv.toInt then .aboveRange else if mv.toInt < 0 then .belowRange else .none }
        [⟨4, (code : Int) * 4⟩])

/-- ROUTE CLOSE and ROUTE OPEN by their tables (R41, R42, R54), with *parked* evaluated again (R34). That start-up settling
is held as a flag that ends at rack time 3, and that bit p of *reserved_pins* is pin p, are the model's
(notes/assumptions/29.md, 36.md). -/
def Obligations.RoutesFollowTheTables : Prop :=
  ∀ (r : Req) (source pin : Byte) (s : State), Admitted r .anyPort true s → r.len = 2 → Table.wf {} s.sources →
    (s.routes.Pairwise fun q k => ¬ (q.source = k.source ∧ q.bay = k.bay ∧ q.pin = k.pin)) →
    let st := s.bayState r.bay
    let mayClose := st = .contacted ∨ st = .powering ∨ st = .powered ∨ st = .testing
    let refused := fun (i : Instr) (x : Status) => exec i s = .next (s.reply r.port ⟨x, .none⟩)
    (¬ mayClose → refused (.routeClose r source pin) .state) ∧
    (8 ≤ source.toNat ∨ 48 ≤ pin.toNat →
      (mayClose → refused (.routeClose r source pin) .range) ∧ refused (.routeOpen r source pin) .range) ∧
    ∀ (i : Fin 8) (p : Fin 48), source.toNat = i.val → pin.toNat = p.val →
      let x := s.source i
      let here := fun q : Route => q.source = i ∧ q.bay = r.bay ∧ q.pin = p
      let checks : List (Prop × Status) :=
        [(x.owner = some r.bay, .denied), (x.freeing = false, .busy),
         ((s.setups.get r.bay).reservedPins.getLsbD p.val = false, .denied),
         ((∀ q ∈ s.routes, here q → ∀ e, q.state ≠ .opening e), .busy),
         ((∀ q ∈ s.routes, q.source ≠ i → q.bay = r.bay → q.pin = p → ∃ e, q.state = .opening e), .denied),
         ((s.routesOf i).length < 4 ∨ ∃ q ∈ s.routes, here q, .full),
         (s.settling = false ∨ 3 ≤ s.rackTime.toNat, .busy)]
      (mayClose → ∀ y, FirstRefusal checks y → refused (.routeClose r source pin) y) ∧
      (mayClose → AllPass checks →
        ((∀ q ∈ s.routes, ¬ here q) → ∃ t : State,
          exec (.routeClose r source pin) s = .next (t.reply r.port ⟨.accepted, .none⟩) ∧
          t = { s with sources := t.sources, routes := s.routes ++ [⟨i, r.bay, p, .closing (s.rackTime + 3)⟩] } ∧
          Reparked s t) ∧
        (∀ q ∈ s.routes, here q →
          (q.state = .closed → exec (.routeClose r source pin) s = .next (s.reply r.port ⟨.ok, .none⟩)) ∧
          (∀ e, q.state = .closing e → exec (.routeClose r source pin) s = .next (s.reply r.port ⟨.accepted, .none⟩)))) ∧
      (x.owner ≠ some r.bay → refused (.routeOpen r source pin) .denied) ∧
      (x.owner = some r.bay → (∀ q ∈ s.routes, ¬ here q) → refused (.routeOpen r source pin) .empty) ∧
      (x.owner = some r.bay → (∃ q ∈ s.routes, here q) → ∃ t : State,
        exec (.routeOpen r source pin) s = .next (t.reply r.port ⟨.accepted, .none⟩) ∧
        t = { s with sources := t.sources, routes := t.routes } ∧ Reparked s t ∧
        t.routes = s.routes.map fun q =>
          if q.source = i ∧ q.bay = r.bay ∧ q.pin = p ∧ (∀ e, q.state ≠ .opening e) then
            { q with state := .opening (s.rackTime + 3) } else q)

/-- The end of a route's transition (R40, R38, R34), with which a *freeing* source that has no route left is FREE and the
other sources are evaluated again, and the end of a running period (R45). -/
def Obligations.TransitionsAndPeriodsEnd : Prop :=
  ∀ (i : Fin 8) (bay : Bay) (pin : Fin 48) (before after_ : List Route) (q : Route) (s : State), s.running = true →
    Table.wf {} s.sources →
    (s.routes = before ++ q :: after_ → q.source = i → q.bay = bay → q.pin = pin →
      (∀ k ∈ before ++ after_, ¬ (k.source = i ∧ k.bay = bay ∧ k.pin = pin)) →
      (∀ e, q.state = .closing e → reached s.rackTime e = true → (s.source i).freeing = false → ∃ t : State,
        exec (.routeTransitionComplete i bay pin) s = .next t ∧
        t = { s with sources := t.sources, routes := before ++ { q with state := .closed } :: after_ } ∧ Reparked s t) ∧
      (∀ e, q.state = .opening e → reached s.rackTime e = true → ∃ t : State,
        exec (.routeTransitionComplete i bay pin) s = .next t ∧
        t = { s with sources := t.sources, routes := before ++ after_ } ∧
        ((s.source i).freeing = false ∨ (∃ k ∈ before ++ after_, k.source = i) → Reparked s t) ∧
        ((s.source i).freeing = true → (∀ k ∈ before ++ after_, k.source ≠ i) →
          t.source i = ⟨none, false, .stopped, 0, 0, 500, 0, true, .none, none⟩ ∧ ∀ j, j ≠ i → ReparkedAt j s t))) ∧
    exec (.pulsePeriodEnd i) s = .next (s.setSource i { s.source i with
      generator := if (s.source i).generator = none then none else running (s.source i) })

/-! ### The vehicle network -/

/-- FRAME WRITE, FRAME READ and SET PAYLOAD (R57, R58, R59): the checks in order, the definition stored with *period* and
*phase* clamped, the runtime records reset, the payload bytes written in place. -/
def Obligations.FrameTableIsWritten : Prop :=
  ∀ (r : Req) (index : Byte) (o : FrameOps) (s : State), s.running = true → (s.ports.get r.port).held = false →
    s.store.state ≠ .loading → Table.wf {} s.frames →
    let i := index.toNat
    let period := if o.period.toNat = 0 then 0 else bounded 5 10000 o.period.toNat
    let d : FrameDef :=
      { valid := o.valid ≠ 0, members := o.members, ident := o.ident.toNat, length := o.length.toNat, payload := o.payload
        cls := o.cls, period := period, phase := if period = 0 then 0 else min o.phase.toNat (period - 1)
        gate := o.gate, alive := o.alive, checksum := o.checksum, mirror := o.mirror ≠ 0 }
    let uses := fun (e : FrameDef) (bay : Bay) => e.valid = true ∧ e.hasMember bay = true ∧
      (s.bayState bay = .powered ∨ s.bayState bay = .testing)
    let checks : List (Prop × Status) :=
      [(∀ bay, ¬ uses (s.frame i) bay ∧ ¬ uses d bay, .state),
       (d.valid = true → 1 ≤ o.members.toNat ∧ o.members.toNat ≤ 3 ∧ o.cls.toNat ≤ 3 ∧ o.gate.toNat ≤ 1 ∧
          (∀ a ∈ o.alive, a.2.toNat ≤ 1) ∧ o.ident.toNat ≤ 2047 ∧ o.length.toNat ≤ 8, .range),
       (d.valid = true → (∀ a ∈ o.alive, a.1.toNat < o.length.toNat) ∧ (∀ c ∈ o.checksum, c.toNat < o.length.toNat),
          .range),
       (d.valid = true → ∀ a ∈ o.alive, ∀ c ∈ o.checksum, c ≠ a.1, .range)]
    (r.port = .ssv → r.len = 24 →
      (∀ st, FirstRefusal checks st → exec (.frameWrite r index o) s = .next (s.reply r.port ⟨st, .none⟩)) ∧
      (AllPass checks → ∃ t : State,
        exec (.frameWrite r index o) s = .next (t.reply r.port ⟨.ok, .frameDef d⟩) ∧
        t = { s with frames := t.frames, nets := t.nets } ∧
        (∀ j, t.frame j = if j = i then d else s.frame j) ∧
        ∀ bay, let n := s.nets.get bay
          t.nets.get bay = { n with
            runtime := Table.write {} n.runtime i ⟨none, false, 0, 0⟩
            current := n.current.map fun c => if c.entry = i then { c with stale := true } else c })) ∧
    (r.port = .ssv → r.len = 1 → exec (.frameRead r index) s = .next (s.reply r.port ⟨.ok, .frameRead (s.frame i)
      (if (s.frame i).hasMember .a then some ((s.nets.get .a).rt i) else none)
      (if (s.frame i).hasMember .b then some ((s.nets.get .b).rt i) else none)⟩)) ∧
    (∀ (offset : Byte) (bytes : List Byte), r.len.toNat = 2 + bytes.length → 1 ≤ bytes.length → bytes.length ≤ 8 →
      let pay : List (Prop × Status) :=
        [((s.frame i).valid = true ∧ offset.toNat + bytes.length ≤ 8, .range),
         (r.port ≠ .ssv → (s.frame i).members = (if r.port = .bsqA then 1 else 2), .denied)]
      (∀ st, FirstRefusal pay st → exec (.setPayload r index offset bytes) s = .next (s.reply r.port ⟨st, .none⟩)) ∧
      (AllPass pay → ∃ t : State, exec (.setPayload r index offset bytes) s = .next (t.reply r.port ⟨.ok, .none⟩) ∧
        t = { s with frames := t.frames } ∧ (∀ j, j ≠ i → t.frame j = s.frame j) ∧
        t.frame i = { s.frame i with payload := (t.frame i).payload } ∧
        ∀ k, (t.frame i).payload.get k =
          if offset.toNat ≤ k ∧ k < offset.toNat + bytes.length then bytes.getD (k - offset.toNat) 0
          else (s.frame i).payload.get k))

/-- SEND, NET RESUME and NET READ (R66, R78, R81). -/
def Obligations.SendAppendsTheEntry : Prop :=
  ∀ (r : Req) (index count : Byte) (s : State), Admitted r .anyPort true s →
    let i := index.toNat
    let d := s.frame i
    let n := s.nets.get r.bay
    let q := n.queues.get d.class
    let live := s.bayState r.bay = .powered ∨ s.bayState r.bay = .testing
    let checks : List (Prop × Status) :=
      [(d.valid = true ∧ d.period = 0, .range), (1 ≤ count.toNat, .range), (d.hasMember r.bay = true, .denied),
       (s.bayState r.bay = .testing ∨ (s.bayState r.bay = .powered ∧ d.gate = 0), .state),
       (n.portState = .active, .state), ((n.rt i).queued = true ∨ q.length < 32, .full)]
    (r.len = 2 →
      (∀ st, FirstRefusal checks st → exec (.send r index count) s = .next (s.reply r.port ⟨st, .none⟩)) ∧
      (AllPass checks → (n.rt i).queued = true → exec (.send r index count) s =
        .next ((s.setNet r.bay (n.setRt i { n.rt i with repeatLeft := count.toNat })).reply r.port ⟨.ok, .none⟩)) ∧
      (AllPass checks → (n.rt i).queued = false → Table.wf {} n.runtime → ∃ m : Net,
        exec (.send r index count) s = .next (((s.setNet r.bay m).select r.bay).reply r.port ⟨.ok, .none⟩) ∧
        m = { n with queues := n.queues.set d.class (q ++ [i]), runtime := m.runtime } ∧
        ∀ j, m.rt j = if j = i then { n.rt i with queued := true, repeatLeft := count.toNat } else n.rt j)) ∧
    (r.len = 0 →
      (¬ (live ∧ n.portState = .faulted) → exec (.netResume r) s = .next (s.reply r.port ⟨.state, .none⟩)) ∧
      (live → n.portState = .faulted → exec (.netResume r) s =
        .next (((s.setNet r.bay { n with portState := .active, fails := 0 }).select r.bay).reply r.port ⟨.ok, .none⟩)) ∧
      exec (.netRead r) s = .next (s.reply r.port ⟨.ok, .net n.portState n.tokens n.fails n.curClass n.credit
        (n.current.map fun c => (c.entry, c.attempts, c.finishing))
        ([n.queues.q3, n.queues.q2, n.queues.q1, n.queues.q0].map fun l => (l.length, l))⟩))

/-- The selection (R67, R69, R70): class 3 first whatever the tokens; else the first waiting class of the cycle 2, 1, 0
from *current_class*, if the tokens cover its cost; the frame that starts is the head of its queue at attempt 1, its
cost is debited to the floor, and the rotation's credit goes down. Otherwise nothing starts. Where the event does not itself
end a frame on the line, a frame from the unit may be on it, and then nothing starts (R60): whether one is is a free choice,
and *lineBusy* is the model's flag (notes/assumptions/8.md). The bytes of a first attempt (R70, R71): the first *length*
payload bytes, the alive count in its nibble, and the inverted sum in the checksum byte. -/
def Obligations.SelectionStartsAFrame : Prop :=
  (∀ (bay : Bay) (s : State),
    let n := s.nets.get bay
    let p := s.setups.get bay
    let floor := fun x : Int => max x (-(p.bucketDepth : Int))
    let cost := fun e : Nat => (47 + 8 * (s.frame e).length : Int)
    let first := fun (c : Cls) (e : Nat) => (some
      { entry := e, cls := c, attempts := 1, ident := (s.frame e).ident
        bytes := formBytes (s.frame e) (n.rt e).aliveCount, onLine := true, arbLost := false, finishing := false
        stale := false } : Option Current)
    let after := fun c : Cls => match c with
      | .c2 => Cls.c1
      | .c1 => Cls.c0
      | _ => Cls.c2
    let weight := fun c : Cls => match c with
      | .c2 => p.w2
      | .c1 => p.w1
      | _ => p.w0
    let free := n.portState = .active ∧ n.current = none ∧ n.lineBusy = false
    let starts := fun m : Net => s.selectIdle bay = s.setNet bay m ∧
      s.select bay = { (if Config.unitOnLine s.choices then s else s.setNet bay m) with choices := s.choices + 1 }
    let stays := s.selectIdle bay = s ∧ s.select bay = s
    (¬ free → stays) ∧
    (free → ∀ e l, n.queues.q3 = e :: l →
      starts { n with tokens := floor (n.tokens - cost e), current := first .c3 e }) ∧
    (free → n.queues = {} → stays) ∧
    (free → n.queues.q3 = [] → n.curClass ≠ .c3 → ∀ c e l, n.queues.get c = e :: l → c ≠ .c3 →
      (c = n.curClass ∨ (n.queues.get n.curClass = [] ∧ (c = after n.curClass ∨ n.queues.get (after n.curClass) = []))) →
      (n.tokens < cost e → stays) ∧
      (cost e ≤ n.tokens → let left := (if c = n.curClass then n.credit else weight c) - 1
        starts { n with
          tokens := floor (n.tokens - cost e), current := first c e
          curClass := if left = 0 then after c else c, credit := if left = 0 then weight (after c) else left }))) ∧
  ∀ (d : FrameDef) (count : Nat), d.length ≤ 8 → count < 16 → (∀ a ∈ d.alive, a.1.toNat < d.length) →
    (∀ c ∈ d.checksum, c.toNat < d.length ∧ ∀ a ∈ d.alive, c ≠ a.1) → d.ident < 2048 →
    let l := formBytes d count
    l.length = d.length ∧
    (∀ k, k < d.length → (∀ a ∈ d.alive, a.1.toNat ≠ k) → (∀ c ∈ d.checksum, c.toNat ≠ k) →
      l.getD k 0 = d.payload.get k) ∧
    (∀ a ∈ d.alive, (l.getD a.1.toNat 0).toNat =
      if a.2 = 0 then (d.payload.get a.1.toNat).toNat / 16 * 16 + count
      else count * 16 + (d.payload.get a.1.toNat).toNat % 16) ∧
    (∀ c ∈ d.checksum, (l.getD c.toNat 0).toNat =
      255 - (d.ident % 256 + d.ident / 256 + ((l.eraseIdx c.toNat).map BitVec.toNat).sum) % 256)

/-- A due event and a millisecond's accrual (R64, R68): *next_due* advances from its old value in every case; the entry
is queued while the port is ACTIVE and its queue has room, an overrun otherwise; tokens accrue to their cap. The field that
says when *tokens* last accrued is the model's (notes/assumptions/35.md), and so is that a due event with no *next_due* has
no effect (3.md). -/
def Obligations.DueFramesAndTokens : Prop :=
  ∀ (bay : Bay) (index : Byte) (s : State), s.running = true →
    let i := index.toNat
    let n := s.nets.get bay
    let d := s.frame i
    let x := n.rt i
    let p := s.setups.get bay
    (∀ due, x.nextDue = some due → reached s.rackTime due = true → Table.wf {} n.runtime →
      let next := some (due + BitVec.ofNat 32 d.period)
      (n.portState = .active → x.queued = false → (n.queues.get d.class).length < 32 → ∃ m : Net,
        exec (.frameDue bay index) s = .next ((s.setNet bay m).select bay) ∧
        m = { n with queues := n.queues.set d.class (n.queues.get d.class ++ [i]), runtime := m.runtime } ∧
        ∀ j, m.rt j = if j = i then { x with nextDue := next, queued := true } else n.rt j) ∧
      (n.portState ≠ .active ∨ x.queued = true ∨ 32 ≤ (n.queues.get d.class).length →
        exec (.frameDue bay index) s =
          .next ((s.setNet bay (n.setRt i { x with nextDue := next })).count bay .overruns))) ∧
    (x.nextDue = none → exec (.frameDue bay index) s = .next s) ∧
    (n.portState ≠ .off → n.accruedAt ≠ s.rackTime →
      exec (.tokenAccrual bay) s = .next ((s.setNet bay { n with
        tokens := min (n.tokens + (n.bitRate * p.loadLimit / 100 : Nat)) p.bucketDepth
        accruedAt := s.rackTime }).select bay)) ∧
    (n.portState = .off → exec (.tokenAccrual bay) s = .next s)

/-- The next attempt of a retried or resumed frame, and the outcomes (R72 to R80): a retry counts and is debited, a resumed
attempt is neither; the last failure drops the frame, the sixteenth drop in a row faults the port and tells both masters. An
acknowledged frame counts, is mirrored, gives up its place and is appended again while repeats are owed; a finishing frame
leaves queues and repeats alone. *lineBusy*, set while the unit's frame that won arbitration is on the line, and that an
outcome other than ARB_LOST leaves the line idle, are the model's (notes/assumptions/8.md). -/
def Obligations.AttemptOutcomesFollowTheirRules : Prop :=
  (∀ (bay : Bay) (c : Current) (o : TxOutcome) (s : State), s.running = true →
    let n := s.nets.get bay
    let p := s.setups.get bay
    let x := n.rt c.entry
    n.current = some c →
    (n.portState = .active → c.onLine = false → c.finishing = false →
      exec (.attemptRestart bay) s = .next (s.setNet bay (if c.arbLost then
          { n with lineBusy := false, current := some { c with onLine := true, arbLost := false } }
        else { n with
          lineBusy := false, tokens := max (n.tokens - (47 + 8 * c.bytes.length)) (-(p.bucketDepth : Int))
          current := some { c with onLine := true, attempts := c.attempts + 1 } }))) ∧
    (c.onLine = true → c.finishing = false →
      exec (.attemptOutcome bay .arbLost) s = .next (s.setNet bay { n with
        current := some { c with onLine := false, arbLost := true }, lineBusy := true }) ∧
      (o = .noAck ∨ o = .busError →
        (c.attempts < 1 + p.retryLimit → exec (.attemptOutcome bay o) s = .next ((s.setNet bay { n with
          current := some { c with onLine := false, arbLost := false }, lineBusy := false }).count bay .txRetries)) ∧
        (1 + p.retryLimit ≤ c.attempts → Table.wf {} n.runtime →
          (n.fails + 1 < 16 → ∃ m : Net,
            exec (.attemptOutcome bay o) s = .next (((s.count bay .txDrops).setNet bay m).selectIdle bay) ∧
            m = { n with
              current := none, lineBusy := false, fails := n.fails + 1, runtime := m.runtime
              queues := n.queues.set c.cls
                ((n.queues.get c.cls).erase c.entry ++ if 1 < x.repeatLeft then [c.entry] else []) } ∧
            ∀ j, m.rt j = if j = c.entry then { x with
              queued := 1 < x.repeatLeft, aliveCount := (x.aliveCount + 1) % 16, repeatLeft := x.repeatLeft - 1 }
              else n.rt j) ∧
          (16 ≤ n.fails + 1 → ∃ t : State, exec (.attemptOutcome bay o) s = .next t ∧
            t = { s with nets := t.nets, stats := (s.count bay .txDrops).stats, attn := t.attn } ∧
            t.nets.get (otherBay bay) = s.nets.get (otherBay bay) ∧
            t.nets.get bay = { n with
              portState := .faulted, queues := {}, current := none, fails := n.fails + 1, lineBusy := false
              runtime := (t.nets.get bay).runtime } ∧
            (∀ j, (t.nets.get bay).rt j = { n.rt j with
              queued := false, repeatLeft := 0
              aliveCount := if j = c.entry then ((n.rt j).aliveCount + 1) % 16 else (n.rt j).aliveCount }) ∧
            Raised (fun m e => (m = sequencer bay ∨ m = .ssv) ∧ e = ⟨.netFault, some bay, .none⟩) s t))))) ∧
  ∀ (bay : Bay) (c : Current) (o : TxOutcome) (s : State), s.running = true →
    let n := s.nets.get bay
    let x := n.rt c.entry
    let mirrored := fun y : Monitor =>
      if (s.frame c.entry).mirror ∧ (s.setups.get bay).mirrorTx then
        (if y.queue.length < 64 then { y with queue := y.queue ++ [⟨.tx, bay, c.ident, c.bytes, s.rackTime⟩] }
          else { y with drops := bumpTo 65535 y.drops })
      else y
    n.current = some c → c.onLine = true → Table.wf {} n.runtime →
    (c.finishing = false → ∃ m : Net,
      exec (.attemptOutcome bay .acked) s = .next
        (({ (s.count bay .txFrames) with monitor := mirrored s.monitor }.setNet bay m).selectIdle bay) ∧
      m = { n with
        current := none, lineBusy := false, fails := 0, runtime := m.runtime
        queues := n.queues.set c.cls ((n.queues.get c.cls).erase c.entry ++ if 1 < x.repeatLeft then [c.entry] else []) } ∧
      ∀ j, m.rt j = if j = c.entry then
        { x with queued := 1 < x.repeatLeft, aliveCount := (x.aliveCount + 1) % 16, repeatLeft := x.repeatLeft - 1 }
        else n.rt j) ∧
    (c.finishing = true → ∃ m : Net,
      let u := (if o = .acked then { (s.count bay .txFrames) with monitor := mirrored s.monitor }
        else s.count bay .txDrops).setNet bay m
      exec (.attemptOutcome bay o) s = .next (if o = .arbLost then u else u.selectIdle bay) ∧
      m = { n with current := none, lineBusy := false, runtime := m.runtime } ∧
      ∀ j, m.rt j = if j = c.entry ∧ c.stale = false then { x with aliveCount := (x.aliveCount + 1) % 16 } else n.rt j)

/-! ### Responses -/

/-- A frame from the unit (R60, R85 to R89): foreign frames are counted and nothing more; a frame of a key with an entry
updates it, another is learned at the lowest free index or missed; unpinned frames are unknown; *mirror_rx* copies. The
aging pass (R90) removes the LEARNED entries older than their bay's *age_limit*, at a multiple of 100 ms only. That a
reception leaves the line idle, with the port OFF too, and that an aging pass at another rack time has no effect, are the
model's (notes/assumptions/8.md, 3.md). -/
def Obligations.ReceptionUpdatesTheTable : Prop :=
  (∀ (bay : Bay) (f : RxFrame) (s : State), s.running = true → Table.wf none s.responses → f.data.length ≤ 8 →
     let ident := f.ident.toNat
     let idle := fun t : State => (t.setNet bay { s.nets.get bay with lineBusy := false }).selectIdle bay
     let key := fun r : Resp => r.bay = bay ∧ r.ident = ident
     let last : LastFrame := ⟨B8.ofList f.data, f.data.length, s.rackTime⟩
     let mirrored := fun y : Monitor =>
       if (s.setups.get bay).mirrorRx then
         (if y.queue.length < 64 then { y with queue := y.queue ++ [⟨.rx, bay, ident, f.data, s.rackTime⟩] }
           else { y with drops := bumpTo 65535 y.drops })
       else y
     ((s.nets.get bay).portState = .off → exec (.frameReceived bay f) s = .next (idle s)) ∧
     ((s.nets.get bay).portState ≠ .off → f.foreign = true →
       exec (.frameReceived bay f) s = .next (idle (s.count bay .rxUnknown))) ∧
     ((s.nets.get bay).portState ≠ .off → f.foreign = false → ∃ t : State,
       exec (.frameReceived bay f) s = .next (idle t) ∧
       t = { s with
         responses := t.responses, stats := t.stats, bays := t.bays, monitor := mirrored s.monitor } ∧
       t.bays.get (otherBay bay) = s.bays.get (otherBay bay) ∧
       t.stat bay .rxFrames = bumpTo 4294967295 (s.stat bay .rxFrames) ∧
       (∀ y k, y ≠ bay ∨ (k ≠ .rxFrames ∧ k ≠ .rxUnknown ∧ k ≠ .learnMisses) → t.stat y k = s.stat y k) ∧
       (∀ i r, s.respAt i = some r → key r → (∀ j q, s.respAt j = some q → key q → j = i) →
         let gap := fun l : LastFrame => (s.rackTime - l.seen).toNat
         (∀ j, j ≠ i → t.respAt j = s.respAt j) ∧ t.stat bay .learnMisses = s.stat bay .learnMisses ∧
         t.respAt i = some { r with
           gaps := match r.last, r.gaps with
             | none, g => g
             | some l, none => some (gap l, gap l)
             | some l, some (lo, hi) => some (min lo (gap l), max hi (gap l))
           last := some last, count := bumpTo 65535 r.count
           mismatch := match r.expectation with
             | some x => if (B8.ofList f.data).and x.mask = x.value then r.mismatch else bumpTo 255 r.mismatch
             | none => r.mismatch } ∧
         (r.expectation ≠ none → t.bays = s.bays ∧ t.stat bay .rxUnknown = s.stat bay .rxUnknown) ∧
         (r.expectation = none → t.stat bay .rxUnknown = bumpTo 4294967295 (s.stat bay .rxUnknown) ∧
           t.bays.get bay = { s.bays.get bay with ctx := { (s.bays.get bay).ctx with
             unknownSeen := (s.bays.get bay).ctx.unknownSeen || decide (s.bayState bay = .testing) } })) ∧
       ((∀ j q, s.respAt j = some q → ¬ key q) →
         t.stat bay .rxUnknown = bumpTo 4294967295 (s.stat bay .rxUnknown) ∧
         t.bays.get bay = { s.bays.get bay with ctx := { (s.bays.get bay).ctx with
           unknownSeen := (s.bays.get bay).ctx.unknownSeen || decide (s.bayState bay = .testing) } } ∧
         (∀ i, i < 128 → s.respAt i = none → (∀ j, j < i → s.respAt j ≠ none) →
           (∀ j, j ≠ i → t.respAt j = s.respAt j) ∧
           t.respAt i = some ⟨bay, ident, none, some last, 1, none, 0⟩ ∧
           t.stat bay .learnMisses = s.stat bay .learnMisses) ∧
         ((∀ i, i < 128 → s.respAt i ≠ none) →
           t.responses = s.responses ∧ t.stat bay .learnMisses = bumpTo 4294967295 (s.stat bay .learnMisses))))) ∧
  (∀ s : State, s.running = true → Table.wf none s.responses →
     (s.rackTime.toNat % 100 ≠ 0 → exec .agingPass s = .next s) ∧
     (s.rackTime.toNat % 100 = 0 → ∃ t : State, exec .agingPass s = .next t ∧ t = { s with responses := t.responses } ∧
       ∀ i r, s.respAt i = some r → t.respAt i =
         if r.expectation = none ∧ ∃ l ∈ r.last, (s.setups.get r.bay).ageLimit < (s.rackTime - l.seen).toNat then none
         else some r))

/-- EXPECT and UNEXPECT (R92, R93): the checks in order, the entry made at the lowest free index, converted or replaced,
with *mismatch_count* 0; UNEXPECT frees the index. -/
def Obligations.ExpectationsArePinned : Prop :=
  ∀ (r : Req) (o : ExpectOps) (s : State), Admitted r .anyPort true s → Table.wf none s.responses →
    (∀ j, 128 ≤ j → s.respAt j = none) →
    let ident := o.ident.toNat
    let key := fun q : Resp => q.bay = r.bay ∧ q.ident = ident
    let held := fun (i : Nat) (q : Resp) => s.respAt i = some q ∧ key q ∧ ∀ j k, s.respAt j = some k → key k → j = i
    let x : Expectation :=
      { gapLow := min 60000 o.gapLow.toNat, gapHigh := min 60000 o.gapHigh.toNat, mask := o.mask
        value := o.value.and o.mask, required := o.required ≠ 0 }
    let bad := 2048 ≤ ident ∨ (x.gapLow ≠ 0 ∧ x.gapHigh ≠ 0 ∧ x.gapHigh < x.gapLow)
    let done := fun (i : Nat) (q : Resp) => ∃ t : State,
      exec (.expect r o) s = .next (t.reply r.port ⟨.ok, .response i q⟩) ∧ t = { s with responses := t.responses } ∧
      t.respAt i = some q ∧ ∀ j, j ≠ i → t.respAt j = s.respAt j
    (r.len = 23 →
      (bad → exec (.expect r o) s = .next (s.reply r.port ⟨.range, .none⟩)) ∧
      (¬ bad → (∀ j k, s.respAt j = some k → ¬ key k) →
        ((∀ i, i < 128 → s.respAt i ≠ none) ∨ 40 ≤ s.pinned r.bay →
          exec (.expect r o) s = .next (s.reply r.port ⟨.full, .none⟩)) ∧
        (∀ i, i < 128 → s.respAt i = none → (∀ j, j < i → s.respAt j ≠ none) → s.pinned r.bay < 40 →
          done i ⟨r.bay, ident, some x, none, 0, none, 0⟩)) ∧
      (¬ bad → ∀ i q, held i q →
        (q.expectation = none → 40 ≤ s.pinned r.bay → exec (.expect r o) s = .next (s.reply r.port ⟨.full, .none⟩)) ∧
        (q.expectation ≠ none ∨ s.pinned r.bay < 40 → done i { q with expectation := some x, mismatch := 0 }))) ∧
    (r.len = 2 →
      (2048 ≤ ident → exec (.unexpect r o.ident) s = .next (s.reply r.port ⟨.range, .none⟩)) ∧
      (ident < 2048 → (∀ j k, s.respAt j = some k → key k → k.expectation = none) →
        exec (.unexpect r o.ident) s = .next (s.reply r.port ⟨.empty, .none⟩)) ∧
      (ident < 2048 → ∀ i q, held i q → q.expectation ≠ none → ∃ t : State,
        exec (.unexpect r o.ident) s = .next (t.reply r.port ⟨.ok, .none⟩) ∧ t = { s with responses := t.responses } ∧
        t.respAt i = none ∧ ∀ j, j ≠ i → t.respAt j = s.respAt j))

/-- RESPONSE READ, MONITOR POP and CHECK RESPONSE (R94 to R97, R99): an entry read by index or key, the oldest monitor
record taken, and a pinned entry judged by the five conditions, its step written and counted. -/
def Obligations.ResponsesAreReadAndJudged : Prop :=
  (∀ (r : Req) (selector : Byte) (which : Half) (s : State), Admitted r .anyPort (selector = 1) s → r.len = 3 →
    Table.wf none s.responses → (∀ j, 128 ≤ j → s.respAt j = none) →
    let names := fun (j : Nat) (q : Resp) => s.respAt j = some q ∧
      ((selector = 0 ∧ which.toNat = j) ∨ (selector = 1 ∧ q.bay = r.bay ∧ q.ident = which.toNat))
    let inRange := (selector = 0 ∧ which.toNat < 128) ∨ (selector = 1 ∧ which.toNat < 2048)
    (¬ inRange → exec (.responseRead r selector which) s = .next (s.reply r.port ⟨.range, .none⟩)) ∧
    (inRange → (∀ j q, ¬ names j q) →
      exec (.responseRead r selector which) s = .next (s.reply r.port ⟨.empty, .none⟩)) ∧
    (inRange → ∀ i q, names i q → (∀ j k, names j k → j = i) →
      exec (.responseRead r selector which) s = .next (s.reply r.port
        (if r.port ≠ .ssv ∧ q.bay ≠ r.bay then ⟨.denied, .none⟩ else ⟨.ok, .response i q⟩))) ∧
    let room := s.vlg.log.length + s.vlg.reservations.length < 128
    let admits := s.vlg.stepsWritten.get r.bay + s.vlg.stepsReserved r.bay < 65535
    let checks : List (Prop × Status) := [(s.bayState r.bay = .testing, .state), (inRange, .range),
      ((∃ i q, names i q ∧ q.bay = r.bay ∧ q.expectation ≠ none), .empty), (room, .full), (admits, .full)]
    let tagged := r.port = .ssv → r.tag = 1 ∨ r.tag = 2
    (tagged → (∀ i j q k, names i q → names j k → i = j) → ∀ st, FirstRefusal checks st →
      exec (.checkResponse r selector which) s = .next (s.reply r.port ⟨st, .none⟩)) ∧
    (tagged → AllPass checks → ∀ i q x, names i q → (∀ j k, names j k → j = i) → q.bay = r.bay → q.expectation = some x →
      let f : StepFlags :=
        { neverSeen := decide (x.required = true ∧ q.count = 0)
          tooFast := decide (0 < x.gapLow ∧ ∃ g ∈ q.gaps, g.1 < x.gapLow)
          tooSlow := decide (0 < x.gapHigh ∧ ∃ g ∈ q.gaps, x.gapHigh < g.2)
          silent := decide (0 < x.gapHigh ∧ ∃ l ∈ q.last, x.gapHigh < (s.rackTime - l.seen).toNat)
          mismatch := decide (0 < q.mismatch) }
      let v : StepVerdict := if f = {} then .pass else .fail
      let c := s.bays.get r.bay
      let index := s.vlg.stepsWritten.get r.bay
      exec (.checkResponse r selector which) s = .next
        ({ s with
          vlg := { s.vlg with
            log := s.vlg.log ++ [LogRec.step ⟨r.bay, c.ctx.unitSeq, index, .response, v, some q.count, none, none, f, s.rackTime⟩]
            stepsWritten := s.vlg.stepsWritten.set r.bay (index + 1) }
          bays := s.bays.set r.bay { c with ctx := { c.ctx with counts := c.ctx.counts.add v } } }.reply r.port
            ⟨.ok, .judged v f index q.count q.gaps (q.last.map LastFrame.seen) q.mismatch⟩))) ∧
  (∀ (r : Req) (s : State), Admitted r .station false s → r.len = 0 →
    (s.monitor.queue = [] → exec (.monitorPop r) s = .next (s.reply r.port ⟨.empty, .none⟩)) ∧
    (∀ x l, s.monitor.queue = x :: l → exec (.monitorPop r) s =
      .next ({ s with monitor := { s.monitor with queue := l } }.reply r.port ⟨.ok, .monitor l.length x⟩)))

/-! ### The Measurement Unit -/

/-- MEU CLAIM with no revoke to make (R103, R104): a bay outside POWERED and TESTING and a requester that has the grant
are refused; with the chain free the claim is granted at once, else it joins the queue, and a second claim raises a
waiter to URGENT in its place. MEU RELEASE by the rows of R107 with no waiter to grant, and a hold expiry with no one
waiting (R105). -/
def Obligations.ClaimsFollowTheTables : Prop :=
  (∀ (r : Req) (s : State), Admitted r .anyPort false s → r.len = 0 →
     let m := r.port
     let barred := ∃ bay, m = sequencer bay ∧ s.bayState bay ≠ .powered ∧ s.bayState bay ≠ .testing
     let free := ∀ k, (s.claim k).granted = false
     let limit := match m with
       | .bsqA => (s.setups.get .a).holdLimit
       | .bsqB => (s.setups.get .b).holdLimit
       | .ssv => 250
     let p : Priority := if m = .ssv then .urgent else .normal
     let kept := fun p' => ∀ k q t l, s.claim k = .holding q t l false →
       ¬ (q = .normal ∧ (p' = .urgent ∨ ∃ w ∈ s.meu.waiters, (s.claim w).urgent = true)) ∧ (s.rackTime - t).toNat < l
     (barred ∨ (s.claim m).granted = true → exec (.meuClaim r) s = .next (s.reply m ⟨.state, .none⟩)) ∧
     (¬ barred → s.claim m = .none →
       (free → s.meu.waiters = [] → exec (.meuClaim r) s = .next
         ({ s with meu := { s.meu with
           claims := s.meu.claims.set m (.holding p s.rackTime limit false)
           holdTimer := some (s.rackTime + BitVec.ofNat 32 limit) } }.reply m ⟨.ok, .claim .holding⟩)) ∧
       (¬ free → kept p → exec (.meuClaim r) s = .next
         ({ s with meu := { s.meu with
           claims := s.meu.claims.set m (.waiting p s.rackTime), waiters := s.meu.waiters ++ [m] } }.reply m
             ⟨.ok, .claim (.waiting p)⟩))) ∧
     (¬ barred → ∀ q t, s.claim m = .waiting q t → ¬ free → kept .urgent → exec (.meuClaim r) s = .next
       ({ s with meu := { s.meu with claims := s.meu.claims.set m (.waiting .urgent t) } }.reply m
         ⟨.ok, .claim (.waiting .urgent)⟩))) ∧
  (∀ (r : Req) (s : State), Admitted r .anyPort false s → r.len = 0 →
     let m := r.port
     let after := fun (st : Status) (c : Claim) (a : ClaimState) (x : Meu) => exec (.meuRelease r) s =
       .next ({ s with meu := { x with claims := s.meu.claims.set m c } }.reply m ⟨st, .claim a⟩)
     (s.claim m = .none → exec (.meuRelease r) s = .next (s.reply m ⟨.state, .none⟩)) ∧
     (∀ p t, s.claim m = .waiting p t → after .ok .none .none { s.meu with waiters := s.meu.waiters.erase m }) ∧
     (∀ p t l x, s.claim m = .holding p t l x → s.measuring m = true →
       after .accepted (.holding p t l true) .holding { s.meu with holdTimer := none }) ∧
     (∀ p t l x, s.claim m = .holding p t l x → s.measuring m = false → s.meu.waiters = [] →
       (∀ k, k ≠ m → (s.claim k).granted = false) → after .ok .none .none { s.meu with holdTimer := none }) ∧
     (∀ p t l x, s.claim m = .revoking p t l x → after .ok (.revoking p t l true) .revoking s.meu) ∧
     (∀ e, s.meu.holdTimer = some e → reached s.rackTime e = true → s.meu.waiters = [] →
       exec .holdTimerExpiry s = .next { s with meu := { s.meu with holdTimer := none } }))

/-- The grant passes in one event from its holder to the next waiter in the order of R104: by MEU RELEASE (R107), by the
expiry of the hold timer with PREEMPT (R105, R106), and by a MEU CLAIM that meets a revoke condition: an URGENT claim or
escalation against a NORMAL holder, or any claim against a holder past its limit. With the holder's measurement in flight
the holder is REVOKING and the claim waits. -/
def Obligations.GrantMovesOnce : Prop :=
  (∀ (m w : Master) (q : Priority) (t0 : Time) (limit : Nat) (s : State),
    s.running = true → NextWaiter s.meu (some w) → m ∉ s.meu.waiters → s.claim m = .holding q t0 limit false →
    (∀ k, k ≠ m → (s.claim k).granted = false) →
    let moved := fun (told : Master → Edge → Prop) (t : State) => t = { s with meu := t.meu, attn := t.attn } ∧
      t.meu = granted s.rackTime s.limitOf (some w)
        { s.meu with claims := s.meu.claims.set m .none, holdTimer := none } ∧
      Raised (fun k e => (k = w ∧ e = ⟨.result, masterBay w, .grant⟩) ∨ told k e) s t
    (∀ r : Req, r.port = m → Admitted r .anyPort false s → r.len = 0 → s.measuring m = false → ∃ t : State,
      exec (.meuRelease r) s = .next (t.reply m ⟨.ok, .claim .none⟩) ∧ moved (fun _ _ => False) t) ∧
    (∀ e, s.meu.holdTimer = some e → reached s.rackTime e = true → limit ≤ (s.rackTime - t0).toNat →
      (s.measuring m = false → ∃ t : State, exec .holdTimerExpiry s = .next t ∧
        moved (fun k e => k = m ∧ e = ⟨.preempt, masterBay m, .none⟩) t) ∧
      (s.measuring m = true → exec .holdTimerExpiry s = .next { s with meu := { s.meu with
        holdTimer := none, claims := s.meu.claims.set m (.revoking q t0 limit false) } }))) ∧
  (∀ (r : Req) (h : Master) (q p : Priority) (t0 since : Time) (limit : Nat) (ws : List Master) (s : State),
    Admitted r .anyPort false s → r.len = 0 →
    let m := r.port
    (∀ bay, m = sequencer bay → s.bayState bay = .powered ∨ s.bayState bay = .testing) →
    s.claim h = .holding q t0 limit false → (∀ k, k ≠ h → (s.claim k).granted = false) →
    (s.claim m = .none ∧ p = (if m = .ssv then .urgent else .normal) ∧ since = s.rackTime ∧ ws = s.meu.waiters ++ [m]) ∨
      ((∃ p0, s.claim m = .waiting p0 since) ∧ m ∈ s.meu.waiters ∧ p = .urgent ∧ ws = s.meu.waiters) →
    (q = .normal ∧ (p = .urgent ∨ ∃ w ∈ s.meu.waiters, (s.claim w).urgent = true)) ∨ limit ≤ (s.rackTime - t0).toNat →
    let x := { s.meu with claims := s.meu.claims.set m (.waiting p since), waiters := ws, holdTimer := none }
    (s.measuring h = true → exec (.meuClaim r) s =
      .next ({ s with meu := { x with claims := x.claims.set h (.revoking q t0 limit false) } }.reply m
        ⟨.ok, .claim (.waiting p)⟩)) ∧
    (s.measuring h = false → ∀ w, NextWaiter x (some w) → ∃ t : State,
      exec (.meuClaim r) s = .next (t.reply m ⟨.ok, .claim (if w = m then .holding else .waiting p)⟩) ∧
      t = { s with
        meu := granted s.rackTime s.limitOf (some w) { x with claims := x.claims.set h .none }, attn := t.attn } ∧
      Raised (fun k e => (k = h ∧ e = ⟨.preempt, masterBay h, .none⟩) ∨
        (k = w ∧ w ≠ m ∧ e = ⟨.result, masterBay w, .grant⟩)) s t))

/-- MEASURE (R109, R110), RESULT READ (R117) and MEU READ (R121): the checks in order; a measurement taken has its operands
clamped, takes its reservation, empties the slot and begins its first phase. That a measurement on IL or IH keeps the
channel byte as given is the model's choice (notes/assumptions/42.md). -/
def Obligations.MeasureChecksThenStarts : Prop :=
  ∀ (r : Req) (o : MeasureOps) (s : State), Admitted r .anyPort true s →
    let m := r.port
    let limited := o.limit ≠ 0xFFFF
    let rangeOk := fun k : Range => o.range = (match k with
      | .v2 => 0
      | .v20 => 1
      | .il => 2
      | .ih => 3
      | .lum => 4 : Byte)
    let channelOk := fun k : Range => match k with
      | .v2 | .v20 => o.channel.toNat < 48
      | .lum => o.channel.toNat < 16
      | .il | .ih => True
    let record := s.limit o.limit.toNat
    let checks : List (Prop × Status) :=
      [((s.claim m).granted = true, .denied), (∃ p t l x, s.claim m = .holding p t l x, .preempted),
       (s.measuring m = false, .busy), (m = .ssv → s.bayState r.bay ≠ .safe, .state),
       (∃ k, rangeOk k ∧ channelOk k, .range), (limited → m ≠ .ssv, .range),
       (limited → s.bayState r.bay = .testing, .state),
       (limited → o.limit.toNat < 256 ∧ record.valid = true ∧ rangeOk record.range, .range),
       (limited → s.vlg.log.length + s.vlg.reservations.length < 128, .full),
       (limited → s.vlg.stepsWritten.get r.bay + s.vlg.stepsReserved r.bay < 65535, .full)]
    (r.len = 7 →
      (∀ st, FirstRefusal checks st → exec (.measure r o) s = .next (s.reply m ⟨st, .none⟩)) ∧
      (AllPass checks → ∀ k, rangeOk k →
        let samples := bounded 1 64 o.samples.toNat
        let settle := min 255 o.settle.toNat
        let volts := k = .v2 ∨ k = .v20
        let x : Measurement :=
          { requester := m, bay := r.bay, range := k, channel := o.channel.toNat, samples := samples, settle := settle
            limit := if limited then some o.limit.toNat else none
            phase := if volts then .connect
              else if settle = 0 then .sampling else .settle (s.rackTime + BitVec.ofNat 32 settle)
            codes := [] }
        exec (.measure r o) s = .next ({ s with
          vlg := if limited then { s.vlg with reservations := s.vlg.reservations ++ [Holder.measure r.bay] } else s.vlg
          meu := { s.meu with
            inFlight := some x, slots := s.meu.slots.set m none
            sense := if volts ∧ s.meu.sense = none then
              some ⟨some (r.bay, o.channel.toNat), .connecting (s.rackTime + 3)⟩ else s.meu.sense } }.reply m
          ⟨.accepted, .measure k o.channel.toNat samples settle⟩))) ∧
    (r.len = 0 →
      (s.measuring m = true → exec (.resultRead r) s = .next (s.reply m ⟨.pending, .none⟩)) ∧
      (s.measuring m = false → s.meu.slots.get m = none →
        exec (.resultRead r) s = .next (s.reply m ⟨.empty, .none⟩)) ∧
      (∀ x, s.measuring m = false → s.meu.slots.get m = some x → exec (.resultRead r) s =
        .next ({ s with meu := { s.meu with slots := s.meu.slots.set m none } }.reply m ⟨.ok, .result x⟩)) ∧
      let shown : Claim → ClaimReport := fun c => match c with
        | .none => .none
        | .waiting p t => .waiting p t
        | .holding p t l pending => .holding p t pending l
        | .revoking p t _ pending => .revoking p t pending
      exec (.meuRead r) s = .next (s.reply m ⟨.ok, .meu
        ⟨shown (s.claim .bsqA), shown (s.claim .bsqB), shown (s.claim .ssv)⟩
        (s.meu.inFlight.map fun x => MeasReport.mk x.requester x.bay x.range x.channel x.samples x.settle x.limit
          (match x.phase with
            | .connect => .connect
            | .settle _ => .settle
            | .sampling => .sampling) x.codes.length)
        (s.meu.sense.map fun y => SenseReport.mk y.target (match y.state with
          | .connecting _ => .connecting
          | .connected => .connected
          | .disconnecting _ => .disconnecting))⟩))

/-- The sense relay's two ends, the end of SETTLE and a sample that is not the last (R111, R112, R113). -/
def Obligations.MeasurementPhasesPass : Prop :=
  ∀ (s : State), s.running = true →
    let begun := fun x : Measurement => { x with
      phase := if x.settle = 0 then MeasPhase.sampling else .settle (s.rackTime + BitVec.ofNat 32 x.settle) }
    (∀ target e, s.meu.sense = some ⟨target, .connecting e⟩ → reached s.rackTime e = true →
      exec .senseConnectComplete s = .next { s with meu := { s.meu with
        sense := some ⟨target, .connected⟩
        inFlight := s.meu.inFlight.map fun x => if x.phase = .connect then begun x else x } }) ∧
    (∀ target e, s.meu.sense = some ⟨target, .disconnecting e⟩ → reached s.rackTime e = true →
      (∀ x, s.meu.inFlight = some x → x.phase = .connect →
        exec .senseDisconnectComplete s = .next { s with meu := { s.meu with
          sense := some ⟨some (x.bay, x.channel), .connecting (s.rackTime + 3)⟩ } }) ∧
      ((∀ x, s.meu.inFlight = some x → x.phase ≠ .connect) →
        exec .senseDisconnectComplete s = .next { s with meu := { s.meu with sense := none } })) ∧
    (∀ x e, s.meu.inFlight = some x → x.phase = .settle e → reached s.rackTime e = true →
      exec .settleEnd s = .next { s with meu := { s.meu with inFlight := some { x with phase := .sampling } } }) ∧
    (∀ x code, s.meu.inFlight = some x → x.phase = .sampling → x.codes.length + 1 < x.samples →
      exec (.sampleTaken code) s = .next { s with meu := { s.meu with
        inFlight := some { x with codes := x.codes ++ [code] } } })

/-- The last sample (R114, R115, R116): the arithmetic on the codes, the STEP record of a limit measurement with its
reservation, the slot, RESULT COMPLETE, the sense connection dropped, the statistics. A holder keeps the grant; a release
that was pending or a revoke ends it, the revoke with PREEMPT, and the next waiter is granted with RESULT GRANT (R104, R106,
R107). -/
def Obligations.LastSampleCompletes : Prop :=
  ∀ (x : Measurement) (code : Half) (w : Option Master) (s : State), s.running = true →
    s.meu.inFlight = some x → x.phase = .sampling → x.samples ≤ x.codes.length + 1 →
    (s.claim x.requester).granted = true → (∀ k, k ≠ x.requester → (s.claim k).granted = false) → NextWaiter s.meu w →
    let r := measured (x.codes ++ [code]) x.range (s.calRec x.bay x.range) s.cal.uncal
    let v := x.limit.map fun l => limitVerdict (s.limit l) r.1 r.2
    let index := s.vlg.stepsWritten.get x.bay
    let c := s.bays.get x.bay
    let ended := { s.meu with
      inFlight := none
      sense := s.meu.sense.map fun y => match y.state with
        | .disconnecting _ => y
        | _ => { y with state := .disconnecting (s.rackTime + 3) }
      slots := s.meu.slots.set x.requester (some ⟨x.bay, x.range, x.channel, x.samples, x.settle, x.limit,
        .done r.1 r.2 v (x.limit.map fun _ => index), s.rackTime⟩) }
    let kept := ∃ p t0 limit, s.claim x.requester = .holding p t0 limit false
    ∃ t : State, exec (.sampleTaken code) s = .next t ∧
      t = { s with meu := t.meu, attn := t.attn, stats := t.stats, vlg := t.vlg, bays := t.bays } ∧
      (kept → t.meu = ended) ∧
      (¬ kept → t.meu = granted s.rackTime s.limitOf w { ended with claims := ended.claims.set x.requester .none }) ∧
      Raised (fun m e => (m = x.requester ∧ (e = ⟨.result, some x.bay, .complete⟩ ∨
          e = ⟨.preempt, masterBay m, .none⟩ ∧ ∃ p t0 limit, s.claim m = .revoking p t0 limit false)) ∨
        (¬ kept ∧ w = some m ∧ e = ⟨.result, masterBay m, .grant⟩)) s t ∧
      (∀ y k, t.stat y k = if y = x.bay ∧ (k = .measurements ∨ k = .overranges ∧ (r.2.clipped = true ∨ r.2.sat = true))
        then bumpTo 4294967295 (s.stat y k) else s.stat y k) ∧
      (x.limit = none → t.vlg = s.vlg ∧ t.bays = s.bays) ∧
      (∀ l u, x.limit = some l → v = some u →
        t.vlg = { s.vlg with
          log := s.vlg.log ++ [LogRec.step ⟨x.bay, c.ctx.unitSeq, index, .measure, u, some r.1, some l, none,
            { clipped := r.2.clipped, sat := r.2.sat, uncal := r.2.uncal }, s.rackTime⟩]
          reservations := s.vlg.reservations.erase (.measure x.bay)
          stepsWritten := s.vlg.stepsWritten.set x.bay (index + 1) } ∧
        t.bays = s.bays.set x.bay { c with ctx := { c.ctx with
          counts := c.ctx.counts.add u, uncal := c.ctx.uncal || r.2.uncal } })

/-- The arithmetic and the limit test (R2, R123 to R129): the mean and the quotients are the nearest integers with halves away from
zero, the corrected code is limited to 16 bits with SAT, CLIPPED marks a code at a rail, and the value stays within
full scale; the effective guard is half the span at most, a clipped or saturated value is an ERROR, and the others are judged
against the bounds and the guard. -/
def Obligations.MeasuredValuesAreJudged : Prop :=
  (∀ n d : Int, 0 < d → 2 * (roundInt n d * d - n) ≤ d ∧ 2 * (n - roundInt n d * d) ≤ d ∧
    (2 * (roundInt n d * d - n) = d → 0 < n) ∧ (2 * (n - roundInt n d * d) = d → n < 0)) ∧
  (∀ (codes : List Half) (k : Range) (r : CalRec) (uncal : Bool), codes ≠ [] → codes.length ≤ 64 →
    let fs : Int := match k with
      | .v2 => 2000
      | .v20 => 20000
      | .il => 500
      | .ih => 5000
      | .lum => 20000
    let mean := roundInt ((codes.map BitVec.toInt).sum) codes.length
    let raw := roundInt (mean * r.gain) 16384 + r.offset
    let c := max (-32768) (min 32767 raw)
    let x := measured codes k r uncal
    (codes.map BitVec.toInt).sum ≤ 2097088 ∧ -2097152 ≤ (codes.map BitVec.toInt).sum ∧
    mean ≤ 32767 ∧ -32768 ≤ mean ∧ x.1 = roundInt (c * fs) 32768 ∧ -fs ≤ x.1 ∧ x.1 ≤ fs ∧
    (x.2.clipped = true ↔ ∃ code ∈ codes, code.toInt = -32768 ∨ code.toInt = 32767) ∧
    (x.2.sat = true ↔ raw ≠ c) ∧ x.2.uncal = uncal) ∧
  ∀ (l : LimitRec) (e : Int) (f : ResultFlags), l.low ≤ l.high →
    let g : Int := min l.guard ((l.high - l.low) / 2)
    0 ≤ g ∧ l.low + g ≤ l.high - g ∧
    (limitVerdict l e f = .error ↔ f.clipped = true ∨ f.sat = true) ∧
    (f.clipped = false → f.sat = false →
      (limitVerdict l e f = .fail ↔ e < l.low ∨ l.high < e) ∧
      (limitVerdict l e f = .pass ↔ l.low + g ≤ e ∧ e ≤ l.high - g) ∧
      (limitVerdict l e f = .marginal ↔ (l.low ≤ e ∧ e < l.low + g) ∨ (l.high - g < e ∧ e ≤ l.high)))

/-- CAL WRITE and CAL READ (R130, R131, R133): the named record takes the clamped values, UNCAL is kept. LIMIT WRITE and
LIMIT READ (R134 to R137): the checks in order, a valid record stored with its guard clamped from below, one that is not
valid with the fields of R134; a taken LIMIT WRITE answers the effective guard g of the record it stores, LIMIT READ that
of a valid record. -/
def Obligations.CalibrationAndLimitsAreStored : Prop :=
  let code := fun k : Range => (match k with
    | .v2 => 0
    | .v20 => 1
    | .il => 2
    | .ih => 3
    | .lum => 4 : Byte)
  (∀ (r : Req) (range : Byte) (gain offset : Full) (s : State), Admitted r .station true s →
    Table.wf {} s.cal.recs →
    ((∀ k, range ≠ code k) →
      (r.len = 9 → exec (.calWrite r range gain offset) s = .next (s.reply r.port ⟨.range, .none⟩)) ∧
      (r.len = 1 → exec (.calRead r range) s = .next (s.reply r.port ⟨.range, .none⟩))) ∧
    ∀ k, range = code k →
      let x : CalRec := ⟨(max 0 (min 65535 gain.toInt)).toNat, max (-32768) (min 32767 offset.toInt)⟩
      (r.len = 9 → ∃ t : State,
        exec (.calWrite r range gain offset) s = .next (t.reply r.port ⟨.ok, .cal r.bay k x⟩) ∧
        t = { s with cal := { s.cal with recs := t.cal.recs } } ∧
        ∀ bay k', t.calRec bay k' = if bay = r.bay ∧ k' = k then x else s.calRec bay k') ∧
      (r.len = 1 → exec (.calRead r range) s =
        .next (s.reply r.port ⟨.ok, .calRead r.bay k (s.calRec r.bay k) s.cal.uncal⟩))) ∧
  (∀ (r : Req) (index : Byte) (o : LimitOps) (s : State), Admitted r .station false s → Table.wf {} s.limits →
    let i := index.toNat
    let named := fun q : Measurement => s.meu.inFlight = some q ∧ q.limit = some i
    let guard := fun x : LimitRec => min x.guard ((x.high - x.low) / 2).toNat
    let stored := fun x : LimitRec => ∃ t : State,
      exec (.limitWrite r index o) s = .next (t.reply r.port ⟨.ok, .limit x (some (guard x))⟩) ∧
      t = { s with limits := t.limits } ∧ ∀ j, t.limit j = if j = i then x else s.limit j
    (r.len = 15 →
      (o.valid = 0 → (∃ q, named q) → exec (.limitWrite r index o) s = .next (s.reply r.port ⟨.busy, .none⟩)) ∧
      (o.valid = 0 → (∀ q, ¬ named q) → stored ⟨false, .v2, 0, 0, 0⟩) ∧
      (o.valid ≠ 0 → (∀ k, o.range ≠ code k) ∨ o.high.toInt < o.low.toInt →
        exec (.limitWrite r index o) s = .next (s.reply r.port ⟨.range, .none⟩)) ∧
      (o.valid ≠ 0 → ∀ k, o.range = code k → o.low.toInt ≤ o.high.toInt →
        let x : LimitRec := ⟨true, k, o.low.toInt, o.high.toInt, (max 0 o.guard.toInt).toNat⟩
        ((∃ q, named q ∧ q.range ≠ k) →
          exec (.limitWrite r index o) s = .next (s.reply r.port ⟨.busy, .none⟩)) ∧
        ((∀ q, named q → q.range = k) → stored x))) ∧
    (r.len = 1 → exec (.limitRead r index) s = .next (s.reply r.port
      ⟨.ok, .limit (s.limit i) (if (s.limit i).valid then some (guard (s.limit i)) else none)⟩)))

/-! ### The Verdict Log -/

/-- NOTE STEP (R150, R147, R149), LOG POP (R151, R145), LOG SETUP (R152) and STATS READ (R155): the checks in order, the
step written and counted; the oldest record handed out, and its place to a front that waits for it; the threshold
clamped; the counters read, and set to 0 where asked. A popped record's place is handed over: a PENDING front is activated,
waits on, or is refused for good and ended CANCELLED (R145, R180). Which of two waiting fronts asks first is a free choice of
the model (notes/assumptions/10.md, 32.md), and that the refusal for good comes first and that a front asks inside the step
that frees the place are its readings (12.md, 45.md). -/
def Obligations.LogRequestsFollowTheirRules : Prop :=
  (∀ (r : Req) (verdict : Byte) (value : Option Full) (s : State), Admitted r .bayPorts false s →
    (r.len = 1 ∧ value = none) ∨ (r.len = 5 ∧ value ≠ none) →
    let code := fun v : StepVerdict => (match v with
      | .pass => 0
      | .marginal => 1
      | .fail => 2
      | .error => 3 : Byte)
    let checks : List (Prop × Status) :=
      [(s.bayState r.bay = .testing, .state), (∃ v, verdict = code v, .range),
       (s.vlg.log.length + s.vlg.reservations.length < 128, .full),
       (s.vlg.stepsWritten.get r.bay + s.vlg.stepsReserved r.bay < 65535, .full)]
    (∀ st, FirstRefusal checks st → exec (.noteStep r verdict value) s = .next (s.reply r.port ⟨st, .none⟩)) ∧
    (AllPass checks → ∀ v, verdict = code v →
      let c := s.bays.get r.bay
      let index := s.vlg.stepsWritten.get r.bay
      exec (.noteStep r verdict value) s = .next
        ({ s with
          vlg := { s.vlg with
            log := s.vlg.log ++ [LogRec.step ⟨r.bay, c.ctx.unitSeq, index, .sequencer, v, value.map BitVec.toInt, none,
              none, {}, s.rackTime⟩]
            stepsWritten := s.vlg.stepsWritten.set r.bay (index + 1) }
          bays := s.bays.set r.bay { c with ctx := { c.ctx with counts := c.ctx.counts.add v } } }.reply r.port
            ⟨.ok, .step index⟩))) ∧
  (∀ (r : Req) (s : State), Admitted r .station false s → r.len = 0 →
    let popped := fun (l : List LogRec) => { s with vlg := { s.vlg with log := l } }
    (s.vlg.log = [] → exec (.logPop r) s = .next (s.reply r.port ⟨.empty, .none⟩)) ∧
    ∀ x l, s.vlg.log = x :: l →
      ((∀ bay p, (s.prus.get bay).front ≠ .pending p) →
        exec (.logPop r) s = .next ((popped l).reply r.port ⟨.ok, .log l.length x⟩)) ∧
      ∃ t : State, exec (.logPop r) s = .next (t.reply r.port ⟨.ok, .log l.length x⟩) ∧ HandedOver (popped l) t) ∧
  (∀ (r : Req) (threshold : Byte) (s : State), Admitted r .station false s → r.len = 1 →
    let n := bounded 1 128 threshold.toNat
    exec (.logSetup r threshold) s = .next ({ s with vlg := { s.vlg with threshold := n } }.reply r.port
      ⟨.ok, .logSetup n s.vlg.log.length s.vlg.reservations.length⟩)) ∧
  (∀ (r : Req) (first count clear : Byte) (s : State), Admitted r .station true s → r.len = 3 →
    let i := first.toNat
    let n := count.toNat
    let answer : Answer := ⟨.ok, .stats r.bay i n ((List.range n).map fun k => Table.read 0 (s.stats.get r.bay) (i + k))⟩
    let inRange := i ≤ 15 ∧ 1 ≤ n ∧ n ≤ 16 ∧ i + n ≤ 16
    (¬ inRange → exec (.statsRead r first count clear) s = .next (s.reply r.port ⟨.range, .none⟩)) ∧
    (inRange → clear = 0 → exec (.statsRead r first count clear) s = .next (s.reply r.port answer)) ∧
    (inRange → clear ≠ 0 → Table.wf 0 (s.stats.get r.bay) → ∃ t : State,
      exec (.statsRead r first count clear) s = .next (t.reply r.port answer) ∧ t = { s with stats := t.stats } ∧
      ∀ bay c, t.stat bay c = if bay = r.bay ∧ i ≤ c.index ∧ c.index < i + n then 0 else s.stat bay c))

/-! ### The display -/

/-- SET CURSOR, DISPLAY WRITE, DISPLAY READ, ATTR SET and ATTR CLEAR (R157, R164 to R167): the cells run from the sender's
cursor and wrap within its addressing, a read goes through the latch, an attribute write keeps codes and other flags. -/
def Obligations.CellsAreWrittenAndRead : Prop :=
  ∀ (r : Req) (s : State), Admitted r .anyPort false s → (s.access.get r.port).clear = none →
    Memory.wf s.odc.codes → Table.wf {} s.odc.attrs →
    let m := r.port
    let x := s.access.get m
    let space := if m = .ssv then 2048 else 800
    let cell := fun k : Nat => (if m = .bsqB then 800 else 0) + (x.cursor + k) % space
    let moved := fun n : Nat => (x.cursor + n) % space
    (∀ address : Half, r.len = 2 →
      (space ≤ address.toNat → exec (.setCursor r address) s = .next (s.reply m ⟨.range, .none⟩)) ∧
      (address.toNat < space → exec (.setCursor r address) s =
        .next ({ s with access := s.access.set m { x with cursor := address.toNat } }.reply m ⟨.ok, .none⟩))) ∧
    (∀ codes : List Byte, r.len.toNat = codes.length → 1 ≤ codes.length → codes.length ≤ 64 → ∃ t : State,
      exec (.displayWrite r codes) s = .next (t.reply m ⟨.ok, .cursor (moved codes.length)⟩) ∧
      t = { s with
        odc := { s.odc with codes := t.odc.codes }
        access := s.access.set m { x with cursor := moved codes.length } } ∧
      (∀ k, k < codes.length → t.odc.code (cell k) = codes.getD k 0) ∧
      ∀ c, (∀ k, k < codes.length → c ≠ cell k) → t.odc.code c = s.odc.code c) ∧
    (∀ count : Byte, r.len = 1 →
      (count.toNat = 0 ∨ 64 < count.toNat → exec (.displayRead r count) s = .next (s.reply m ⟨.range, .none⟩)) ∧
      (∀ n, count.toNat = n + 1 → n < 64 → exec (.displayRead r count) s =
        .next ({ s with access := s.access.set m { x with
            latch := s.odc.code (cell n), cursor := moved (n + 1) } }.reply m
          ⟨.ok, .codes (x.latch :: (List.range n).map fun k => s.odc.code (cell k)) (moved (n + 1))⟩))) ∧
    (∀ flag count : Byte, r.len = 2 →
      (3 ≤ flag.toNat ∨ count.toNat = 0 ∨ 64 < count.toNat →
        exec (.attrSet r flag count) s = .next (s.reply m ⟨.range, .none⟩) ∧
        exec (.attrClear r flag count) s = .next (s.reply m ⟨.range, .none⟩)) ∧
      (flag.toNat < 3 → 1 ≤ count.toNat → count.toNat ≤ 64 → ∀ v : Bool, ∃ t : State,
        exec (if v then .attrSet r flag count else .attrClear r flag count) s =
          .next (t.reply m ⟨.ok, .cursor (moved count.toNat)⟩) ∧
        t = { s with
          odc := { s.odc with attrs := t.odc.attrs }
          access := s.access.set m { x with cursor := moved count.toNat } } ∧
        (∀ k, k < count.toNat → let y := s.odc.attr (cell k)
          t.odc.attr (cell k) = if flag = 0 then { y with blink := v } else if flag = 1 then { y with inverse := v }
            else { y with underline := v }) ∧
        ∀ c, (∀ k, k < count.toNat → c ≠ cell k) → t.odc.attr c = s.odc.attr c))

/-- CLEAR AREA and its blocks (R168, R169): nothing is cleared at once, each block clears up to 64 cells, the last moves
the cursor and ends the clear; while it runs every display request of its sender is refused BUSY. SET WINDOW (R172),
STATION SCREEN (R163), GLYPH LOAD (R170) and the blink phase (R160). That SET WINDOW checks its operand before the bay
state, that a clear block with no clear in progress has no effect, and where the last block leaves the cursor, are the
model's readings (notes/assumptions/14.md, 3.md, 39.md). -/
def Obligations.ClearsWindowsAndGlyphsFollowTheirRules : Prop :=
  (∀ (r : Req) (count : Half) (s : State), Admitted r .anyPort false s → (s.access.get r.port).clear = none → r.len = 2 →
    let m := r.port
    let space := if m = .ssv then 2048 else 800
    let x := s.access.get m
    (count.toNat = 0 ∨ space < count.toNat → exec (.clearArea r count) s = .next (s.reply m ⟨.range, .none⟩)) ∧
    (1 ≤ count.toNat → count.toNat ≤ space → exec (.clearArea r count) s =
      .next ({ s with access := s.access.set m { x with clear := some ⟨x.cursor, count.toNat, s.rackTime + 1⟩ } }.reply m
        ⟨.accepted, .blocks ((count.toNat + 63) / 64)⟩))) ∧
  (∀ (m : Master) (c : Clear) (s : State), s.running = true → (s.access.get m).clear = some c →
    reached s.rackTime c.due = true → Memory.wf s.odc.codes → Table.wf {} s.odc.attrs →
    let x := s.access.get m
    let space := if m = .ssv then 2048 else 800
    let n := min 64 c.left
    let cell := fun k : Nat => (if m = .bsqB then 800 else 0) + (c.next + k) % space
    let next := (c.next + n) % space
    ∃ t : State, exec (.clearBlock m) s = .next t ∧
      t = { s with
        odc := { s.odc with codes := t.odc.codes, attrs := t.odc.attrs }
        access := s.access.set m (if c.left ≤ 64 then { x with cursor := next, clear := none }
          else { x with clear := some ⟨next, c.left - 64, c.due + 1⟩ }) } ∧
      (∀ k, k < n → t.odc.code (cell k) = 0x20 ∧ t.odc.attr (cell k) = ⟨false, false, false⟩) ∧
      ∀ d, (∀ k, k < n → d ≠ cell k) → t.odc.code d = s.odc.code d ∧ t.odc.attr d = s.odc.attr d) ∧
  (∀ (m : Master) (s : State), (s.access.get m).clear = none → exec (.clearBlock m) s = .next s) ∧
  (∀ (i : Instr) (row : Row) (tagged : Bool) (s : State), requestRow i = some row → (row.tagged → tagged = true) →
    Admitted row.req row.sender tagged s → row.fits → (s.access.get row.req.port).clear ≠ none →
    ((∃ r x, i = .setCursor r x) ∨ (∃ r x, i = .displayWrite r x) ∨ (∃ r x, i = .displayRead r x) ∨
      (∃ r x y, i = .attrSet r x y) ∨ (∃ r x y, i = .attrClear r x y) ∨ (∃ r x, i = .clearArea r x) ∨
      (∃ r x, i = .setWindow r x) ∨ (∃ r x y, i = .stationScreen r x y) ∨ (∃ r x y, i = .glyphLoad r x y)) →
    exec i s = .next (s.reply row.req.port ⟨.busy, .none⟩)) ∧
  (∀ (r : Req) (start : Half) (s : State), Admitted r .anyPort true s → r.len = 2 →
    (s.access.get r.port).clear = none →
    (800 ≤ start.toNat → exec (.setWindow r start) s = .next (s.reply r.port ⟨.range, .none⟩)) ∧
    (start.toNat < 800 → s.bayState r.bay = .safe →
      exec (.setWindow r start) s = .next (s.reply r.port ⟨.state, .none⟩)) ∧
    (start.toNat < 800 → s.bayState r.bay ≠ .safe → exec (.setWindow r start) s =
      .next ({ s with windows := s.windows.set r.bay { s.windows.get r.bay with start := start.toNat } }.reply r.port
        ⟨.ok, .none⟩))) ∧
  (∀ (r : Req) (on : Byte) (start : Half) (s : State), Admitted r .station false s → r.len = 3 →
    (s.access.get r.port).clear = none →
    (on ≠ 0 → 2048 ≤ start.toNat → exec (.stationScreen r on start) s = .next (s.reply r.port ⟨.range, .none⟩)) ∧
    (on = 0 ∨ start.toNat < 2048 → let shown := if on = 0 then none else some start.toNat
      exec (.stationScreen r on start) s =
        .next ({ s with odc := { s.odc with screen := shown } }.reply r.port ⟨.ok, .screen shown⟩))) ∧
  (∀ (r : Req) (code : Byte) (rows : B8) (s : State), Admitted r .station false s → r.len = 9 →
    (s.access.get r.port).clear = none → Table.wf {} s.odc.glyphs →
    let kept : B8 := ⟨rows.b0 &&& 0x3F, rows.b1 &&& 0x3F, rows.b2 &&& 0x3F, rows.b3 &&& 0x3F, rows.b4 &&& 0x3F,
      rows.b5 &&& 0x3F, rows.b6 &&& 0x3F, rows.b7 &&& 0x3F⟩
    (code.toNat < 0xE0 → exec (.glyphLoad r code rows) s = .next (s.reply r.port ⟨.range, .none⟩)) ∧
    (0xE0 ≤ code.toNat → ∃ t : State,
      exec (.glyphLoad r code rows) s = .next (t.reply r.port ⟨.ok, .glyph code kept⟩) ∧
      t = { s with odc := { s.odc with glyphs := t.odc.glyphs } } ∧
      ∀ c, Table.read {} t.odc.glyphs c = if c = code.toNat then kept else Table.read {} s.odc.glyphs c)) ∧
  (∀ s : State, s.running = true → exec .blinkPhaseChange s = .next { s with odc := { s.odc with
    blinkOn := decide (s.rackTime.toNat / 500 % 2 = 0) } })

/-- The outputs that follow the state: ATN (R200), the lamp lines (R28), a source's output (R34, R35, R45, R51), the relays
(R40, R112), the acknowledge slot (R60), and the panel: the cell of each position (R162, R163) and each dot of it, composed
from glyph, attributes, blink phase and window blink (R158 to R160, R171). -/
def Obligations.OutputsFollowTheState : Prop :=
  (∀ (s : State) (m : Master), s.atnLow m = true ↔
    (s.attn.get m).edges ≠ [] ∨ (s.attn.get m).notices ≠ [] ∨
    (m = .ssv ∧ (s.vlg.threshold ≤ s.vlg.log.length ∨ s.monitor.queue ≠ []))) ∧
  (∀ (s : State) (bay : Bay), let on := s.odc.blinkOn
    s.lampLevels bay = (match (s.bays.get bay).lamp with
      | .off => (false, false)
      | .busy => (true, true)
      | .pass => (false, true)
      | .passMarginal => (false, on)
      | .fail => (true, false)
      | .aborted => (on, false)
      | .safe => (on, on)) ∧
    (s.acknowledges bay = true ↔ (s.nets.get bay).portState = .active ∨ (s.nets.get bay).portState = .faulted)) ∧
  (∀ (s : State) (i : Fin 8), let x := s.source i
    (i.val < 4 → s.drive i = (if x.parked then .low else match x.generator with
      | some g => .pulses g.1 g.2
      | none => if 0 < x.highTicks then .high else .low)) ∧
    (4 ≤ i.val → s.drive i = .millivolts (if x.parked then 0 else x.levelCode * 4))) ∧
  (∀ (s : State) (i : Fin 8) (bay : Bay) (pin : Fin 48),
    (s.relayCommanded i bay pin = true ↔
      ∃ q ∈ s.routes, q.source = i ∧ q.bay = bay ∧ q.pin = pin ∧ ∀ e, q.state ≠ .opening e) ∧
    (s.senseCommanded bay pin.val = true ↔
      ∃ y, s.meu.sense = some y ∧ y.target = some (bay, pin.val) ∧ ∀ e, y.state ≠ .disconnecting e)) ∧
  (∀ (s : State) (row col : Nat), row < 16 → col < 40 →
    (∀ start, s.odc.screen = some start → s.cellAt row col = (start + 40 * row + col) % 2048) ∧
    (s.odc.screen = none →
      (row < 8 → s.cellAt row col = ((s.windows.get .a).start + 40 * row + col) % 800) ∧
      (8 ≤ row → s.cellAt row col = 800 + ((s.windows.get .b).start + 40 * (row - 8) + col) % 800))) ∧
  (∀ (s : State) (row col y x : Nat), row < 16 → col < 40 → y < 8 → x < 6 →
    let cell := s.cellAt row col
    let code := s.odc.code cell
    let a := s.odc.attr cell
    let off := s.odc.blinkOn = false
    let glyph := if code.toNat < 0x20 ∨ code = 0x20 then false
      else if code.toNat < 0xE0 then Config.romDot code y x
      else ((Table.read {} s.odc.glyphs code.toNat : B8).get y).getLsbD (5 - x)
    let inverted := xor (glyph || (a.underline && decide (y = 7))) a.inverse
    let shown := if a.blink = true ∧ off then false else inverted
    let w := s.windows.get (if row < 8 then .a else .b)
    s.dotAt row col y x =
      (if s.odc.screen = none ∧ (w.promptBlink = true ∨ w.safeBlink = true) ∧ off then !shown else shown))

/-! ### Prompts and keys -/

/-- PROMPT (R177 to R180), PROMPT READ (R188), ANSWER READ (R184) and PROMPT CANCEL (R185): the checks in order, the
front place or the tail of the waiting list taken; the slot read and emptied; the active prompt answered CANCELLED with
its reservation released, the next one promoted, and the freed place handed over. Waiting VISUAL prompts that step admission
refuses are ended CANCELLED and passed over (R180), whether or not the log has a place (notes/assumptions/12.md); which of
two waiting fronts asks first is the model's free choice (10.md, 32.md), and that they ask inside the step that frees the
place is its reading (45.md). -/
def Obligations.PromptsJoinTheQueue : Prop :=
  (∀ (r : Req) (o : PromptOps) (s : State), Admitted r .anyPort true s → r.len = 10 →
    let st := s.bayState r.bay
    let u := s.prus.get r.bay
    let code := fun k : PromptKind => (match k with
      | .acknowledge => 0
      | .choice => 1
      | .visual => 2 : Byte)
    let admits := s.vlg.stepsWritten.get r.bay + s.vlg.stepsReserved r.bay < 65535
    let checks : List (Prop × Status) :=
      [(st = .powered ∨ st = .testing, .state), (∃ k, o.kind = code k, .range), (o.kind = 2 → st = .testing, .state),
       (1 ≤ o.allowed.toNat ∧ o.allowed.toNat ≤ 7, .range),
       (o.kind = 0 → o.allowed = 1 ∨ o.allowed = 2 ∨ o.allowed = 4, .range), (o.kind = 2 → o.allowed = 3, .range),
       (o.page ≠ 0xFFFF → o.page.toNat ≤ 799, .range),
       ((u.front = .empty → u.waiting.length < 5) ∧ (u.front ≠ .empty → u.waiting.length < 4), .full),
       (o.kind = 2 → admits, .full)]
    (∀ y, FirstRefusal checks y → exec (.prompt r o) s = .next (s.reply r.port ⟨y, .none⟩)) ∧
    (AllPass checks → ∀ k, o.kind = code k →
      let p : Prompt :=
        { promptId := o.promptId, kind := k
          allowed := ⟨o.allowed.getLsbD 0, o.allowed.getLsbD 1, o.allowed.getLsbD 2⟩
          timeout := if o.timeout = 0 then 0 else bounded 100 600000 o.timeout.toNat
          page := if o.page = 0xFFFF then none else some o.page.toNat, blink := o.blink ≠ 0, poster := r.port }
      (u.front ≠ .empty → exec (.prompt r o) s =
        .next ({ s with prus := s.prus.set r.bay { u with waiting := u.waiting ++ [p] } }.reply r.port
          ⟨.ok, .prompt p.timeout (.waiting (u.waiting.length + 1))⟩)) ∧
      (u.front = .empty → ∃ t : State,
        exec (.prompt r o) s = .next (t.reply r.port ⟨.ok, .prompt p.timeout
          (if k = .visual ∧ 128 ≤ s.vlg.log.length + s.vlg.reservations.length then .pending else .active)⟩) ∧
        Promoted r.bay (p :: u.waiting) s t))) ∧
  (∀ (r : Req) (s : State), Admitted r .anyPort true s → r.len = 0 →
    let u := s.prus.get r.bay
    exec (.promptRead r) s = .next (s.reply r.port
      ⟨.ok, .promptRead u.front (u.waiting.map fun p => (p.promptId, p.kind, p.poster)) (u.slot = none)⟩) ∧
    (u.slot = none → exec (.answerRead r) s = .next (s.reply r.port ⟨.empty, .none⟩)) ∧
    (∀ x, u.slot = some x → exec (.answerRead r) s =
      .next ({ s with prus := s.prus.set r.bay { u with slot := none } }.reply r.port ⟨.ok, .answer x⟩))) ∧
  (∀ (r : Req) (id : Option Byte) (s : State), Admitted r .anyPort true s →
    (r.len = 0 ∧ id = none) ∨ (r.len = 1 ∧ id ≠ none) →
    let u := s.prus.get r.bay
    (u.front = .empty ∨ (∃ p, u.front = .pending p) ∨ (∃ p since e, u.front = .active p since e ∧ id ≠ none ∧
        id ≠ some p.promptId) → exec (.promptCancel r id) s = .next (s.reply r.port ⟨.empty, .none⟩)) ∧
    (∀ p since e, u.front = .active p since e → id = none ∨ id = some p.promptId →
      ∃ ended filled t : State, exec (.promptCancel r id) s = .next (t.reply r.port ⟨.ok, .promptId p.promptId⟩) ∧
      ended = { s with
        vlg := if p.kind = .visual then { s.vlg with reservations := s.vlg.reservations.erase (.prompt r.bay) } else s.vlg
        prus := s.prus.set r.bay { u with slot := some (cancelledSlot p (s.rackTime - since).toNat u.slot) }
        windows := s.windows.set r.bay { s.windows.get r.bay with promptBlink := false }, attn := ended.attn } ∧
      Raised (fun m y => m = p.poster ∧ y = ⟨.prompt, some r.bay, .none⟩) s ended ∧
      Promoted r.bay u.waiting ended filled ∧
      (p.kind = .visual → HandedOver filled t) ∧ (p.kind ≠ .visual → t = filled)))

/-- A key that answers the active prompt and the expiry of its timer (R181 to R184): the step of a VISUAL prompt, the
slot, PROMPT to the poster, the next prompt promoted, with the VISUAL ones that step admission refuses passed over (R180,
notes/assumptions/12.md), PROMPT_TIMEOUTS for an expiry. Any other press of YES, NO or REPEAT
(R181), and an ABORT key that the bay does not take (R187), is a stray key and nothing else. That a press counts as later
than the activation when rack time has moved on is the model's reading (notes/assumptions/33.md). -/
def Obligations.KeysAnswerThePrompt : Prop :=
  (∀ (bay : Bay) (p : Prompt) (since : Time) (expiry : Option Time) (s : State), s.running = true →
    (s.prus.get bay).front = .active p since expiry →
    let u := s.prus.get bay
    let c := s.bays.get bay
    let index := s.vlg.stepsWritten.get bay
    let answered := fun (x : Reply) (ms : Nat) (t : State) =>
      let v : StepVerdict := if x = .yes then .pass else if x = .no then .fail else .error
      let slot : AnswerSlot :=
        { promptId := p.promptId, kind := p.kind, poster := p.poster, answer := x, elapsed := ms
          stepIndex := if p.kind = .visual then some index else none
          missed := match u.slot with
            | none => 0
            | some old => bumpTo 255 old.missed }
      t = { s with
        vlg := if p.kind = .visual then { s.vlg with
          log := s.vlg.log ++ [LogRec.step ⟨bay, c.ctx.unitSeq, index, .prompt, v, none, none, some p.promptId,
            { timeout := decide (x = .timeout) }, s.rackTime⟩]
          reservations := s.vlg.reservations.erase (.prompt bay)
          stepsWritten := s.vlg.stepsWritten.set bay (index + 1) } else s.vlg
        bays := if p.kind = .visual then
          s.bays.set bay { c with ctx := { c.ctx with counts := c.ctx.counts.add v } } else s.bays
        prus := s.prus.set bay { u with slot := some slot }
        windows := s.windows.set bay { s.windows.get bay with promptBlink := false }, attn := t.attn } ∧
      Raised (fun m y => m = p.poster ∧ y = ⟨.prompt, some bay, .none⟩) s t
    (∀ k : Key, p.allowed.has k = true → s.rackTime ≠ since → ∃ ended t : State,
      exec (.keyPress bay k) s = .next t ∧
      answered (match k with
        | .yes => .yes
        | .no => .no
        | .again => .again) (s.rackTime - since).toNat ended ∧ Promoted bay u.waiting ended t) ∧
    (∀ e, expiry = some e → reached s.rackTime e = true → ∃ ended filled t : State,
      exec (.promptTimerExpiry bay) s = .next t ∧ answered .timeout p.timeout ended ∧
      Promoted bay u.waiting ended filled ∧ t = { filled with stats := t.stats } ∧
      ∀ y k, t.stat y k = if y = bay ∧ k = .promptTimeouts then bumpTo 4294967295 (s.stat y k) else s.stat y k)) ∧
  (∀ (bay : Bay) (i : Instr) (s : State), s.running = true →
    ((∃ k, i = .keyPress bay k ∧ ∀ p since e, (s.prus.get bay).front = .active p since e →
        p.allowed.has k = false ∨ s.rackTime = since) ∨
      (i = .abortKey bay ∧ (s.bayState bay = .vacant ∨ s.bayState bay = .loaded ∨ s.bayState bay = .closing ∨
        s.bayState bay = .safe ∨
        (s.bayState bay = .testing ∧ (s.bays.get bay).ctx.policy.operatorAbort = false)))) →
    ∃ t : State, exec i s = .next t ∧ t = { s with stats := t.stats } ∧
      ∀ y c, t.stat y c = if y = bay ∧ c = .strayKeys then bumpTo 4294967295 (s.stat y c) else s.stat y c)

/-! ### The laws, kept by every step -/

/-- The part right after reset satisfies every law, at the reset values the chapters give and, for the input pins, those
the model chose (notes/assumptions/4.md). -/
def Obligations.LawsHoldAtReset : Prop := Sound State.reset

/-- Every step keeps the bays in order and in agreement with their fixture inputs (R4 to R6, R25, R28). -/
def Obligations.BaysAgreeWithTheirInputs : Prop :=
  ∀ s t : State, Sound s → step s = .next t → BayLaw t ∧ FixtureLaw t

/-- Every step keeps the law of sources and routes: *parked* as R34 gives it, one route for a pin and source, one closed
relay for a pin, at most four routes for a source, closed ones only in the states of R41 (R34, R38, R40, R41, R43). -/
def Obligations.SourcesStayParkedWhereTheyMust : Prop :=
  ∀ s t : State, Sound s → step s = .next t → SourceLaw t

/-- Every step keeps the network ports in order: OFF outside POWERED and TESTING, tokens in their bounds, each entry
queued once and only while it may be sent, attempts within the retry limit; a frame that finishes after its port went OFF
was on the line before (R56, R61, R65, R67, R68, R77, R80). -/
def Obligations.NetworkPortsStayInOrder : Prop :=
  ∀ s t : State, Sound s → step s = .next t → NetLaw t ∧
    ∀ bay c, (t.nets.get bay).current = some c → c.finishing = true →
      ∃ d, (s.nets.get bay).current = some d ∧ d.onLine = true ∧ d.bytes = c.bytes

/-- Every step keeps the Response Table in order: at most 128 entries, one for a key, at most 40 pinned for a bay, learned
ones only for a bay that is POWERED or TESTING; the Monitor Queue holds at most 64 (R83, R91, R98). -/
def Obligations.ResponseTableStaysInOrder : Prop :=
  ∀ s t : State, Sound s → step s = .next t → ResponseLaw t

/-- Every step keeps the law of the grant: at most one requester HOLDING or REVOKING, waiters only behind a grant, a bay's
claim only while it is POWERED or TESTING (R101 to R107, R119). -/
def Obligations.OneRequesterHoldsTheGrant : Prop :=
  ∀ s t : State, Sound s → step s = .next t → GrantLaw t

/-- Every step keeps the law of R143: records and reservations are at most 128, each reservation stands for a running
unit, a limit measurement in flight or an active VISUAL prompt; R148 and R149 bound and count a unit's steps. -/
def Obligations.ReservationsMatchTheirHolders : Prop :=
  ∀ s t : State, Sound s → step s = .next t → LogLaw t

/-- Every step keeps the prompts and the display in order: at most five prompts for a bay, none outside POWERED and
TESTING, a PENDING front only while the log is full; addresses in their regions; the alert shown in SAFE alone
(R164, R171 to R180, R186). -/
def Obligations.PromptsAndDisplayStayInOrder : Prop :=
  ∀ s t : State, Sound s → step s = .next t → PromptLaw t ∧ DisplayLaw t

/-- Every step keeps the stored values in their forms: each table canonical, each setting in its range, each attention
set in delivery order with one entry for a cause (R30, R33, R130, R134, R152, R154, R198 to R203). -/
def Obligations.StoredValuesStayInTheirForms : Prop :=
  ∀ s t : State, Sound s → step s = .next t → TableLaw t ∧ RangeLaw t ∧ AttnLaw t
end

