-- ==== Sys2Proof/Laws/Places.lean ====
section
/-! SUPPORT. Reading a place by bay or by master after writing one. -/

namespace Sys2Proof.Machine

variable {α : Type}

@[simp] theorem Per.get_set_self (p : Per α) (bay : Bay) (v : α) : (p.set bay v).get bay = v := by cases bay <;> rfl

theorem Per.get_set_ne (p : Per α) {bay x : Bay} (v : α) (h : x ≠ bay) : (p.set bay v).get x = p.get x := by
  cases bay <;> cases x <;> first | rfl | exact absurd rfl h

theorem Per.get_set (p : Per α) (bay x : Bay) (v : α) : (p.set bay v).get x = if x = bay then v else p.get x := by
  cases bay <;> cases x <;> rfl

@[simp] theorem Per.set_get (p : Per α) (bay : Bay) : p.set bay (p.get bay) = p := by cases bay <;> rfl

@[simp] theorem Per.set_set (p : Per α) (bay : Bay) (v w : α) : (p.set bay v).set bay w = p.set bay w := by
  cases bay <;> rfl

@[ext] theorem Per.ext_get {p q : Per α} (h : ∀ bay, p.get bay = q.get bay) : p = q := by
  have ha := h .a
  have hb := h .b
  cases p; cases q; simp_all [Per.get]

/-- A pair of places is its bay's written over the other one. -/
theorem Per.eq_set_of (p q : Per α) (bay : Bay) (v : α) (h : q.get bay = v)
    (h' : q.get (otherBay bay) = p.get (otherBay bay)) : q = p.set bay v := by
  subst h; cases bay <;> cases p <;> cases q <;> simp_all [Per.get, Per.set, otherBay]

@[simp] theorem otherBay_ne (bay : Bay) : otherBay bay ≠ bay := by cases bay <;> decide

@[simp] theorem ne_otherBay (bay : Bay) : bay ≠ otherBay bay := by cases bay <;> decide

@[simp] theorem otherBay_otherBay (bay : Bay) : otherBay (otherBay bay) = bay := by cases bay <;> rfl

theorem eq_otherBay {bay x : Bay} (h : x ≠ bay) : x = otherBay bay := by
  cases bay <;> cases x <;> first | rfl | exact absurd rfl h

@[simp] theorem Per.get_set_other (p : Per α) (bay : Bay) (v : α) :
    (p.set bay v).get (otherBay bay) = p.get (otherBay bay) := by cases bay <;> rfl

@[simp] theorem Tri.get_set_self (p : Tri α) (m : Master) (v : α) : (p.set m v).get m = v := by cases m <;> rfl

theorem Tri.get_set_ne (p : Tri α) {m x : Master} (v : α) (h : x ≠ m) : (p.set m v).get x = p.get x := by
  cases m <;> cases x <;> first | rfl | exact absurd rfl h

theorem Tri.get_set (p : Tri α) (m x : Master) (v : α) : (p.set m v).get x = if x = m then v else p.get x := by
  cases m <;> cases x <;> rfl

@[simp] theorem Tri.set_get (p : Tri α) (m : Master) : p.set m (p.get m) = p := by cases m <;> rfl

@[simp] theorem Tri.set_set (p : Tri α) (m : Master) (v w : α) : (p.set m v).set m w = p.set m w := by
  cases m <;> rfl

@[ext] theorem Tri.ext_get {p q : Tri α} (h : ∀ m, p.get m = q.get m) : p = q := by
  have ha := h .bsqA
  have hb := h .bsqB
  have hs := h .ssv
  cases p; cases q; simp_all [Tri.get]

@[simp] theorem sequencer_ne_ssv (bay : Bay) : sequencer bay ≠ .ssv := by cases bay <;> decide

@[simp] theorem ssv_ne_sequencer (bay : Bay) : Master.ssv ≠ sequencer bay := by cases bay <;> decide

@[simp] theorem masterBay_sequencer (bay : Bay) : masterBay (sequencer bay) = some bay := by cases bay <;> rfl

theorem sequencer_injective {x y : Bay} (h : sequencer x = sequencer y) : x = y := by
  cases x <;> cases y <;> first | rfl | cases h

/-- A master is the station or a bay's sequencer. -/
theorem master_cases (m : Master) : m = .ssv ∨ ∃ bay, m = sequencer bay := by
  cases m
  · exact .inr ⟨.a, rfl⟩
  · exact .inr ⟨.b, rfl⟩
  · exact .inl rfl

end Sys2Proof.Machine
end

