-- ==== Sys2Proof/Laws/State.lean ====
section
/-! SUPPORT. Fields of the state under its updates: one lemma per field per update, true by `rfl`, so that no later
proof unfolds a record update. `reply_running` says that `reply` keeps `running`, and so on. -/

namespace Sys2Proof.Machine

variable (s : State)

/-! ### reply -/

@[simp] theorem State.reply_running (m : Master) (x : Answer) : (s.reply m x).running = s.running := rfl
@[simp] theorem State.reply_rackTime (m : Master) (x : Answer) : (s.reply m x).rackTime = s.rackTime := rfl
@[simp] theorem State.reply_inputs (m : Master) (x : Answer) : (s.reply m x).inputs = s.inputs := rfl
@[simp] theorem State.reply_emergency (m : Master) (x : Answer) : (s.reply m x).emergency = s.emergency := rfl
@[simp] theorem State.reply_bays (m : Master) (x : Answer) : (s.reply m x).bays = s.bays := rfl
@[simp] theorem State.reply_setups (m : Master) (x : Answer) : (s.reply m x).setups = s.setups := rfl
@[simp] theorem State.reply_sources (m : Master) (x : Answer) : (s.reply m x).sources = s.sources := rfl
@[simp] theorem State.reply_routes (m : Master) (x : Answer) : (s.reply m x).routes = s.routes := rfl
@[simp] theorem State.reply_settling (m : Master) (x : Answer) : (s.reply m x).settling = s.settling := rfl
@[simp] theorem State.reply_frames (m : Master) (x : Answer) : (s.reply m x).frames = s.frames := rfl
@[simp] theorem State.reply_nets (m : Master) (x : Answer) : (s.reply m x).nets = s.nets := rfl
@[simp] theorem State.reply_responses (m : Master) (x : Answer) : (s.reply m x).responses = s.responses := rfl
@[simp] theorem State.reply_monitor (m : Master) (x : Answer) : (s.reply m x).monitor = s.monitor := rfl
@[simp] theorem State.reply_meu (m : Master) (x : Answer) : (s.reply m x).meu = s.meu := rfl
@[simp] theorem State.reply_cal (m : Master) (x : Answer) : (s.reply m x).cal = s.cal := rfl
@[simp] theorem State.reply_limits (m : Master) (x : Answer) : (s.reply m x).limits = s.limits := rfl
@[simp] theorem State.reply_vlg (m : Master) (x : Answer) : (s.reply m x).vlg = s.vlg := rfl
@[simp] theorem State.reply_stats (m : Master) (x : Answer) : (s.reply m x).stats = s.stats := rfl
@[simp] theorem State.reply_odc (m : Master) (x : Answer) : (s.reply m x).odc = s.odc := rfl
@[simp] theorem State.reply_access (m : Master) (x : Answer) : (s.reply m x).access = s.access := rfl
@[simp] theorem State.reply_windows (m : Master) (x : Answer) : (s.reply m x).windows = s.windows := rfl
@[simp] theorem State.reply_prus (m : Master) (x : Answer) : (s.reply m x).prus = s.prus := rfl
@[simp] theorem State.reply_attn (m : Master) (x : Answer) : (s.reply m x).attn = s.attn := rfl
@[simp] theorem State.reply_ports (m : Master) (x : Answer) : (s.reply m x).ports = s.ports.set m { s.ports.get m with answer := some x } := rfl
@[simp] theorem State.reply_store (m : Master) (x : Answer) : (s.reply m x).store = s.store := rfl
@[simp] theorem State.reply_choices (m : Master) (x : Answer) : (s.reply m x).choices = s.choices := rfl
@[simp] theorem State.reply_pending (m : Master) (x : Answer) : (s.reply m x).pending = s.pending := rfl

/-! ### raise -/

@[simp] theorem State.raise_running (m : Master) (e : Edge) : (s.raise m e).running = s.running := rfl
@[simp] theorem State.raise_rackTime (m : Master) (e : Edge) : (s.raise m e).rackTime = s.rackTime := rfl
@[simp] theorem State.raise_inputs (m : Master) (e : Edge) : (s.raise m e).inputs = s.inputs := rfl
@[simp] theorem State.raise_emergency (m : Master) (e : Edge) : (s.raise m e).emergency = s.emergency := rfl
@[simp] theorem State.raise_bays (m : Master) (e : Edge) : (s.raise m e).bays = s.bays := rfl
@[simp] theorem State.raise_setups (m : Master) (e : Edge) : (s.raise m e).setups = s.setups := rfl
@[simp] theorem State.raise_sources (m : Master) (e : Edge) : (s.raise m e).sources = s.sources := rfl
@[simp] theorem State.raise_routes (m : Master) (e : Edge) : (s.raise m e).routes = s.routes := rfl
@[simp] theorem State.raise_settling (m : Master) (e : Edge) : (s.raise m e).settling = s.settling := rfl
@[simp] theorem State.raise_frames (m : Master) (e : Edge) : (s.raise m e).frames = s.frames := rfl
@[simp] theorem State.raise_nets (m : Master) (e : Edge) : (s.raise m e).nets = s.nets := rfl
@[simp] theorem State.raise_responses (m : Master) (e : Edge) : (s.raise m e).responses = s.responses := rfl
@[simp] theorem State.raise_monitor (m : Master) (e : Edge) : (s.raise m e).monitor = s.monitor := rfl
@[simp] theorem State.raise_meu (m : Master) (e : Edge) : (s.raise m e).meu = s.meu := rfl
@[simp] theorem State.raise_cal (m : Master) (e : Edge) : (s.raise m e).cal = s.cal := rfl
@[simp] theorem State.raise_limits (m : Master) (e : Edge) : (s.raise m e).limits = s.limits := rfl
@[simp] theorem State.raise_vlg (m : Master) (e : Edge) : (s.raise m e).vlg = s.vlg := rfl
@[simp] theorem State.raise_stats (m : Master) (e : Edge) : (s.raise m e).stats = s.stats := rfl
@[simp] theorem State.raise_odc (m : Master) (e : Edge) : (s.raise m e).odc = s.odc := rfl
@[simp] theorem State.raise_access (m : Master) (e : Edge) : (s.raise m e).access = s.access := rfl
@[simp] theorem State.raise_windows (m : Master) (e : Edge) : (s.raise m e).windows = s.windows := rfl
@[simp] theorem State.raise_prus (m : Master) (e : Edge) : (s.raise m e).prus = s.prus := rfl
@[simp] theorem State.raise_attn (m : Master) (e : Edge) : (s.raise m e).attn = s.attn.set m { s.attn.get m with edges := insertEdge e (s.attn.get m).edges } := rfl
@[simp] theorem State.raise_ports (m : Master) (e : Edge) : (s.raise m e).ports = s.ports := rfl
@[simp] theorem State.raise_store (m : Master) (e : Edge) : (s.raise m e).store = s.store := rfl
@[simp] theorem State.raise_choices (m : Master) (e : Edge) : (s.raise m e).choices = s.choices := rfl
@[simp] theorem State.raise_pending (m : Master) (e : Edge) : (s.raise m e).pending = s.pending := rfl

/-! ### setBay -/

@[simp] theorem State.setBay_running (bay : Bay) (x : BayCtl) : (s.setBay bay x).running = s.running := rfl
@[simp] theorem State.setBay_rackTime (bay : Bay) (x : BayCtl) : (s.setBay bay x).rackTime = s.rackTime := rfl
@[simp] theorem State.setBay_inputs (bay : Bay) (x : BayCtl) : (s.setBay bay x).inputs = s.inputs := rfl
@[simp] theorem State.setBay_emergency (bay : Bay) (x : BayCtl) : (s.setBay bay x).emergency = s.emergency := rfl
@[simp] theorem State.setBay_bays (bay : Bay) (x : BayCtl) : (s.setBay bay x).bays = s.bays.set bay x := rfl
@[simp] theorem State.setBay_setups (bay : Bay) (x : BayCtl) : (s.setBay bay x).setups = s.setups := rfl
@[simp] theorem State.setBay_sources (bay : Bay) (x : BayCtl) : (s.setBay bay x).sources = s.sources := rfl
@[simp] theorem State.setBay_routes (bay : Bay) (x : BayCtl) : (s.setBay bay x).routes = s.routes := rfl
@[simp] theorem State.setBay_settling (bay : Bay) (x : BayCtl) : (s.setBay bay x).settling = s.settling := rfl
@[simp] theorem State.setBay_frames (bay : Bay) (x : BayCtl) : (s.setBay bay x).frames = s.frames := rfl
@[simp] theorem State.setBay_nets (bay : Bay) (x : BayCtl) : (s.setBay bay x).nets = s.nets := rfl
@[simp] theorem State.setBay_responses (bay : Bay) (x : BayCtl) : (s.setBay bay x).responses = s.responses := rfl
@[simp] theorem State.setBay_monitor (bay : Bay) (x : BayCtl) : (s.setBay bay x).monitor = s.monitor := rfl
@[simp] theorem State.setBay_meu (bay : Bay) (x : BayCtl) : (s.setBay bay x).meu = s.meu := rfl
@[simp] theorem State.setBay_cal (bay : Bay) (x : BayCtl) : (s.setBay bay x).cal = s.cal := rfl
@[simp] theorem State.setBay_limits (bay : Bay) (x : BayCtl) : (s.setBay bay x).limits = s.limits := rfl
@[simp] theorem State.setBay_vlg (bay : Bay) (x : BayCtl) : (s.setBay bay x).vlg = s.vlg := rfl
@[simp] theorem State.setBay_stats (bay : Bay) (x : BayCtl) : (s.setBay bay x).stats = s.stats := rfl
@[simp] theorem State.setBay_odc (bay : Bay) (x : BayCtl) : (s.setBay bay x).odc = s.odc := rfl
@[simp] theorem State.setBay_access (bay : Bay) (x : BayCtl) : (s.setBay bay x).access = s.access := rfl
@[simp] theorem State.setBay_windows (bay : Bay) (x : BayCtl) : (s.setBay bay x).windows = s.windows := rfl
@[simp] theorem State.setBay_prus (bay : Bay) (x : BayCtl) : (s.setBay bay x).prus = s.prus := rfl
@[simp] theorem State.setBay_attn (bay : Bay) (x : BayCtl) : (s.setBay bay x).attn = s.attn := rfl
@[simp] theorem State.setBay_ports (bay : Bay) (x : BayCtl) : (s.setBay bay x).ports = s.ports := rfl
@[simp] theorem State.setBay_store (bay : Bay) (x : BayCtl) : (s.setBay bay x).store = s.store := rfl
@[simp] theorem State.setBay_choices (bay : Bay) (x : BayCtl) : (s.setBay bay x).choices = s.choices := rfl
@[simp] theorem State.setBay_pending (bay : Bay) (x : BayCtl) : (s.setBay bay x).pending = s.pending := rfl

/-! ### setCtx -/

@[simp] theorem State.setCtx_running (bay : Bay) (x : BayCtx) : (s.setCtx bay x).running = s.running := rfl
@[simp] theorem State.setCtx_rackTime (bay : Bay) (x : BayCtx) : (s.setCtx bay x).rackTime = s.rackTime := rfl
@[simp] theorem State.setCtx_inputs (bay : Bay) (x : BayCtx) : (s.setCtx bay x).inputs = s.inputs := rfl
@[simp] theorem State.setCtx_emergency (bay : Bay) (x : BayCtx) : (s.setCtx bay x).emergency = s.emergency := rfl
@[simp] theorem State.setCtx_bays (bay : Bay) (x : BayCtx) : (s.setCtx bay x).bays = s.bays.set bay { s.bays.get bay with ctx := x } := rfl
@[simp] theorem State.setCtx_setups (bay : Bay) (x : BayCtx) : (s.setCtx bay x).setups = s.setups := rfl
@[simp] theorem State.setCtx_sources (bay : Bay) (x : BayCtx) : (s.setCtx bay x).sources = s.sources := rfl
@[simp] theorem State.setCtx_routes (bay : Bay) (x : BayCtx) : (s.setCtx bay x).routes = s.routes := rfl
@[simp] theorem State.setCtx_settling (bay : Bay) (x : BayCtx) : (s.setCtx bay x).settling = s.settling := rfl
@[simp] theorem State.setCtx_frames (bay : Bay) (x : BayCtx) : (s.setCtx bay x).frames = s.frames := rfl
@[simp] theorem State.setCtx_nets (bay : Bay) (x : BayCtx) : (s.setCtx bay x).nets = s.nets := rfl
@[simp] theorem State.setCtx_responses (bay : Bay) (x : BayCtx) : (s.setCtx bay x).responses = s.responses := rfl
@[simp] theorem State.setCtx_monitor (bay : Bay) (x : BayCtx) : (s.setCtx bay x).monitor = s.monitor := rfl
@[simp] theorem State.setCtx_meu (bay : Bay) (x : BayCtx) : (s.setCtx bay x).meu = s.meu := rfl
@[simp] theorem State.setCtx_cal (bay : Bay) (x : BayCtx) : (s.setCtx bay x).cal = s.cal := rfl
@[simp] theorem State.setCtx_limits (bay : Bay) (x : BayCtx) : (s.setCtx bay x).limits = s.limits := rfl
@[simp] theorem State.setCtx_vlg (bay : Bay) (x : BayCtx) : (s.setCtx bay x).vlg = s.vlg := rfl
@[simp] theorem State.setCtx_stats (bay : Bay) (x : BayCtx) : (s.setCtx bay x).stats = s.stats := rfl
@[simp] theorem State.setCtx_odc (bay : Bay) (x : BayCtx) : (s.setCtx bay x).odc = s.odc := rfl
@[simp] theorem State.setCtx_access (bay : Bay) (x : BayCtx) : (s.setCtx bay x).access = s.access := rfl
@[simp] theorem State.setCtx_windows (bay : Bay) (x : BayCtx) : (s.setCtx bay x).windows = s.windows := rfl
@[simp] theorem State.setCtx_prus (bay : Bay) (x : BayCtx) : (s.setCtx bay x).prus = s.prus := rfl
@[simp] theorem State.setCtx_attn (bay : Bay) (x : BayCtx) : (s.setCtx bay x).attn = s.attn := rfl
@[simp] theorem State.setCtx_ports (bay : Bay) (x : BayCtx) : (s.setCtx bay x).ports = s.ports := rfl
@[simp] theorem State.setCtx_store (bay : Bay) (x : BayCtx) : (s.setCtx bay x).store = s.store := rfl
@[simp] theorem State.setCtx_choices (bay : Bay) (x : BayCtx) : (s.setCtx bay x).choices = s.choices := rfl
@[simp] theorem State.setCtx_pending (bay : Bay) (x : BayCtx) : (s.setCtx bay x).pending = s.pending := rfl

/-! ### setLamp -/

@[simp] theorem State.setLamp_running (bay : Bay) (l : Lamp) : (s.setLamp bay l).running = s.running := rfl
@[simp] theorem State.setLamp_rackTime (bay : Bay) (l : Lamp) : (s.setLamp bay l).rackTime = s.rackTime := rfl
@[simp] theorem State.setLamp_inputs (bay : Bay) (l : Lamp) : (s.setLamp bay l).inputs = s.inputs := rfl
@[simp] theorem State.setLamp_emergency (bay : Bay) (l : Lamp) : (s.setLamp bay l).emergency = s.emergency := rfl
@[simp] theorem State.setLamp_bays (bay : Bay) (l : Lamp) : (s.setLamp bay l).bays = s.bays.set bay { s.bays.get bay with lamp := l } := rfl
@[simp] theorem State.setLamp_setups (bay : Bay) (l : Lamp) : (s.setLamp bay l).setups = s.setups := rfl
@[simp] theorem State.setLamp_sources (bay : Bay) (l : Lamp) : (s.setLamp bay l).sources = s.sources := rfl
@[simp] theorem State.setLamp_routes (bay : Bay) (l : Lamp) : (s.setLamp bay l).routes = s.routes := rfl
@[simp] theorem State.setLamp_settling (bay : Bay) (l : Lamp) : (s.setLamp bay l).settling = s.settling := rfl
@[simp] theorem State.setLamp_frames (bay : Bay) (l : Lamp) : (s.setLamp bay l).frames = s.frames := rfl
@[simp] theorem State.setLamp_nets (bay : Bay) (l : Lamp) : (s.setLamp bay l).nets = s.nets := rfl
@[simp] theorem State.setLamp_responses (bay : Bay) (l : Lamp) : (s.setLamp bay l).responses = s.responses := rfl
@[simp] theorem State.setLamp_monitor (bay : Bay) (l : Lamp) : (s.setLamp bay l).monitor = s.monitor := rfl
@[simp] theorem State.setLamp_meu (bay : Bay) (l : Lamp) : (s.setLamp bay l).meu = s.meu := rfl
@[simp] theorem State.setLamp_cal (bay : Bay) (l : Lamp) : (s.setLamp bay l).cal = s.cal := rfl
@[simp] theorem State.setLamp_limits (bay : Bay) (l : Lamp) : (s.setLamp bay l).limits = s.limits := rfl
@[simp] theorem State.setLamp_vlg (bay : Bay) (l : Lamp) : (s.setLamp bay l).vlg = s.vlg := rfl
@[simp] theorem State.setLamp_stats (bay : Bay) (l : Lamp) : (s.setLamp bay l).stats = s.stats := rfl
@[simp] theorem State.setLamp_odc (bay : Bay) (l : Lamp) : (s.setLamp bay l).odc = s.odc := rfl
@[simp] theorem State.setLamp_access (bay : Bay) (l : Lamp) : (s.setLamp bay l).access = s.access := rfl
@[simp] theorem State.setLamp_windows (bay : Bay) (l : Lamp) : (s.setLamp bay l).windows = s.windows := rfl
@[simp] theorem State.setLamp_prus (bay : Bay) (l : Lamp) : (s.setLamp bay l).prus = s.prus := rfl
@[simp] theorem State.setLamp_attn (bay : Bay) (l : Lamp) : (s.setLamp bay l).attn = s.attn := rfl
@[simp] theorem State.setLamp_ports (bay : Bay) (l : Lamp) : (s.setLamp bay l).ports = s.ports := rfl
@[simp] theorem State.setLamp_store (bay : Bay) (l : Lamp) : (s.setLamp bay l).store = s.store := rfl
@[simp] theorem State.setLamp_choices (bay : Bay) (l : Lamp) : (s.setLamp bay l).choices = s.choices := rfl
@[simp] theorem State.setLamp_pending (bay : Bay) (l : Lamp) : (s.setLamp bay l).pending = s.pending := rfl

/-! ### startTimer -/

@[simp] theorem State.startTimer_running (bay : Bay) (p : TimerPurpose) (ms : Nat) : (s.startTimer bay p ms).running = s.running := rfl
@[simp] theorem State.startTimer_rackTime (bay : Bay) (p : TimerPurpose) (ms : Nat) : (s.startTimer bay p ms).rackTime = s.rackTime := rfl
@[simp] theorem State.startTimer_inputs (bay : Bay) (p : TimerPurpose) (ms : Nat) : (s.startTimer bay p ms).inputs = s.inputs := rfl
@[simp] theorem State.startTimer_emergency (bay : Bay) (p : TimerPurpose) (ms : Nat) : (s.startTimer bay p ms).emergency = s.emergency := rfl
@[simp] theorem State.startTimer_bays (bay : Bay) (p : TimerPurpose) (ms : Nat) : (s.startTimer bay p ms).bays = s.bays.set bay { s.bays.get bay with timer := some ⟨after s.rackTime ms, p⟩ } := rfl
@[simp] theorem State.startTimer_setups (bay : Bay) (p : TimerPurpose) (ms : Nat) : (s.startTimer bay p ms).setups = s.setups := rfl
@[simp] theorem State.startTimer_sources (bay : Bay) (p : TimerPurpose) (ms : Nat) : (s.startTimer bay p ms).sources = s.sources := rfl
@[simp] theorem State.startTimer_routes (bay : Bay) (p : TimerPurpose) (ms : Nat) : (s.startTimer bay p ms).routes = s.routes := rfl
@[simp] theorem State.startTimer_settling (bay : Bay) (p : TimerPurpose) (ms : Nat) : (s.startTimer bay p ms).settling = s.settling := rfl
@[simp] theorem State.startTimer_frames (bay : Bay) (p : TimerPurpose) (ms : Nat) : (s.startTimer bay p ms).frames = s.frames := rfl
@[simp] theorem State.startTimer_nets (bay : Bay) (p : TimerPurpose) (ms : Nat) : (s.startTimer bay p ms).nets = s.nets := rfl
@[simp] theorem State.startTimer_responses (bay : Bay) (p : TimerPurpose) (ms : Nat) : (s.startTimer bay p ms).responses = s.responses := rfl
@[simp] theorem State.startTimer_monitor (bay : Bay) (p : TimerPurpose) (ms : Nat) : (s.startTimer bay p ms).monitor = s.monitor := rfl
@[simp] theorem State.startTimer_meu (bay : Bay) (p : TimerPurpose) (ms : Nat) : (s.startTimer bay p ms).meu = s.meu := rfl
@[simp] theorem State.startTimer_cal (bay : Bay) (p : TimerPurpose) (ms : Nat) : (s.startTimer bay p ms).cal = s.cal := rfl
@[simp] theorem State.startTimer_limits (bay : Bay) (p : TimerPurpose) (ms : Nat) : (s.startTimer bay p ms).limits = s.limits := rfl
@[simp] theorem State.startTimer_vlg (bay : Bay) (p : TimerPurpose) (ms : Nat) : (s.startTimer bay p ms).vlg = s.vlg := rfl
@[simp] theorem State.startTimer_stats (bay : Bay) (p : TimerPurpose) (ms : Nat) : (s.startTimer bay p ms).stats = s.stats := rfl
@[simp] theorem State.startTimer_odc (bay : Bay) (p : TimerPurpose) (ms : Nat) : (s.startTimer bay p ms).odc = s.odc := rfl
@[simp] theorem State.startTimer_access (bay : Bay) (p : TimerPurpose) (ms : Nat) : (s.startTimer bay p ms).access = s.access := rfl
@[simp] theorem State.startTimer_windows (bay : Bay) (p : TimerPurpose) (ms : Nat) : (s.startTimer bay p ms).windows = s.windows := rfl
@[simp] theorem State.startTimer_prus (bay : Bay) (p : TimerPurpose) (ms : Nat) : (s.startTimer bay p ms).prus = s.prus := rfl
@[simp] theorem State.startTimer_attn (bay : Bay) (p : TimerPurpose) (ms : Nat) : (s.startTimer bay p ms).attn = s.attn := rfl
@[simp] theorem State.startTimer_ports (bay : Bay) (p : TimerPurpose) (ms : Nat) : (s.startTimer bay p ms).ports = s.ports := rfl
@[simp] theorem State.startTimer_store (bay : Bay) (p : TimerPurpose) (ms : Nat) : (s.startTimer bay p ms).store = s.store := rfl
@[simp] theorem State.startTimer_choices (bay : Bay) (p : TimerPurpose) (ms : Nat) : (s.startTimer bay p ms).choices = s.choices := rfl
@[simp] theorem State.startTimer_pending (bay : Bay) (p : TimerPurpose) (ms : Nat) : (s.startTimer bay p ms).pending = s.pending := rfl

/-! ### setNet -/

@[simp] theorem State.setNet_running (bay : Bay) (x : Net) : (s.setNet bay x).running = s.running := rfl
@[simp] theorem State.setNet_rackTime (bay : Bay) (x : Net) : (s.setNet bay x).rackTime = s.rackTime := rfl
@[simp] theorem State.setNet_inputs (bay : Bay) (x : Net) : (s.setNet bay x).inputs = s.inputs := rfl
@[simp] theorem State.setNet_emergency (bay : Bay) (x : Net) : (s.setNet bay x).emergency = s.emergency := rfl
@[simp] theorem State.setNet_bays (bay : Bay) (x : Net) : (s.setNet bay x).bays = s.bays := rfl
@[simp] theorem State.setNet_setups (bay : Bay) (x : Net) : (s.setNet bay x).setups = s.setups := rfl
@[simp] theorem State.setNet_sources (bay : Bay) (x : Net) : (s.setNet bay x).sources = s.sources := rfl
@[simp] theorem State.setNet_routes (bay : Bay) (x : Net) : (s.setNet bay x).routes = s.routes := rfl
@[simp] theorem State.setNet_settling (bay : Bay) (x : Net) : (s.setNet bay x).settling = s.settling := rfl
@[simp] theorem State.setNet_frames (bay : Bay) (x : Net) : (s.setNet bay x).frames = s.frames := rfl
@[simp] theorem State.setNet_nets (bay : Bay) (x : Net) : (s.setNet bay x).nets = s.nets.set bay x := rfl
@[simp] theorem State.setNet_responses (bay : Bay) (x : Net) : (s.setNet bay x).responses = s.responses := rfl
@[simp] theorem State.setNet_monitor (bay : Bay) (x : Net) : (s.setNet bay x).monitor = s.monitor := rfl
@[simp] theorem State.setNet_meu (bay : Bay) (x : Net) : (s.setNet bay x).meu = s.meu := rfl
@[simp] theorem State.setNet_cal (bay : Bay) (x : Net) : (s.setNet bay x).cal = s.cal := rfl
@[simp] theorem State.setNet_limits (bay : Bay) (x : Net) : (s.setNet bay x).limits = s.limits := rfl
@[simp] theorem State.setNet_vlg (bay : Bay) (x : Net) : (s.setNet bay x).vlg = s.vlg := rfl
@[simp] theorem State.setNet_stats (bay : Bay) (x : Net) : (s.setNet bay x).stats = s.stats := rfl
@[simp] theorem State.setNet_odc (bay : Bay) (x : Net) : (s.setNet bay x).odc = s.odc := rfl
@[simp] theorem State.setNet_access (bay : Bay) (x : Net) : (s.setNet bay x).access = s.access := rfl
@[simp] theorem State.setNet_windows (bay : Bay) (x : Net) : (s.setNet bay x).windows = s.windows := rfl
@[simp] theorem State.setNet_prus (bay : Bay) (x : Net) : (s.setNet bay x).prus = s.prus := rfl
@[simp] theorem State.setNet_attn (bay : Bay) (x : Net) : (s.setNet bay x).attn = s.attn := rfl
@[simp] theorem State.setNet_ports (bay : Bay) (x : Net) : (s.setNet bay x).ports = s.ports := rfl
@[simp] theorem State.setNet_store (bay : Bay) (x : Net) : (s.setNet bay x).store = s.store := rfl
@[simp] theorem State.setNet_choices (bay : Bay) (x : Net) : (s.setNet bay x).choices = s.choices := rfl
@[simp] theorem State.setNet_pending (bay : Bay) (x : Net) : (s.setNet bay x).pending = s.pending := rfl

/-! ### setPru -/

@[simp] theorem State.setPru_running (bay : Bay) (x : Pru) : (s.setPru bay x).running = s.running := rfl
@[simp] theorem State.setPru_rackTime (bay : Bay) (x : Pru) : (s.setPru bay x).rackTime = s.rackTime := rfl
@[simp] theorem State.setPru_inputs (bay : Bay) (x : Pru) : (s.setPru bay x).inputs = s.inputs := rfl
@[simp] theorem State.setPru_emergency (bay : Bay) (x : Pru) : (s.setPru bay x).emergency = s.emergency := rfl
@[simp] theorem State.setPru_bays (bay : Bay) (x : Pru) : (s.setPru bay x).bays = s.bays := rfl
@[simp] theorem State.setPru_setups (bay : Bay) (x : Pru) : (s.setPru bay x).setups = s.setups := rfl
@[simp] theorem State.setPru_sources (bay : Bay) (x : Pru) : (s.setPru bay x).sources = s.sources := rfl
@[simp] theorem State.setPru_routes (bay : Bay) (x : Pru) : (s.setPru bay x).routes = s.routes := rfl
@[simp] theorem State.setPru_settling (bay : Bay) (x : Pru) : (s.setPru bay x).settling = s.settling := rfl
@[simp] theorem State.setPru_frames (bay : Bay) (x : Pru) : (s.setPru bay x).frames = s.frames := rfl
@[simp] theorem State.setPru_nets (bay : Bay) (x : Pru) : (s.setPru bay x).nets = s.nets := rfl
@[simp] theorem State.setPru_responses (bay : Bay) (x : Pru) : (s.setPru bay x).responses = s.responses := rfl
@[simp] theorem State.setPru_monitor (bay : Bay) (x : Pru) : (s.setPru bay x).monitor = s.monitor := rfl
@[simp] theorem State.setPru_meu (bay : Bay) (x : Pru) : (s.setPru bay x).meu = s.meu := rfl
@[simp] theorem State.setPru_cal (bay : Bay) (x : Pru) : (s.setPru bay x).cal = s.cal := rfl
@[simp] theorem State.setPru_limits (bay : Bay) (x : Pru) : (s.setPru bay x).limits = s.limits := rfl
@[simp] theorem State.setPru_vlg (bay : Bay) (x : Pru) : (s.setPru bay x).vlg = s.vlg := rfl
@[simp] theorem State.setPru_stats (bay : Bay) (x : Pru) : (s.setPru bay x).stats = s.stats := rfl
@[simp] theorem State.setPru_odc (bay : Bay) (x : Pru) : (s.setPru bay x).odc = s.odc := rfl
@[simp] theorem State.setPru_access (bay : Bay) (x : Pru) : (s.setPru bay x).access = s.access := rfl
@[simp] theorem State.setPru_windows (bay : Bay) (x : Pru) : (s.setPru bay x).windows = s.windows := rfl
@[simp] theorem State.setPru_prus (bay : Bay) (x : Pru) : (s.setPru bay x).prus = s.prus.set bay x := rfl
@[simp] theorem State.setPru_attn (bay : Bay) (x : Pru) : (s.setPru bay x).attn = s.attn := rfl
@[simp] theorem State.setPru_ports (bay : Bay) (x : Pru) : (s.setPru bay x).ports = s.ports := rfl
@[simp] theorem State.setPru_store (bay : Bay) (x : Pru) : (s.setPru bay x).store = s.store := rfl
@[simp] theorem State.setPru_choices (bay : Bay) (x : Pru) : (s.setPru bay x).choices = s.choices := rfl
@[simp] theorem State.setPru_pending (bay : Bay) (x : Pru) : (s.setPru bay x).pending = s.pending := rfl

/-! ### setWindow -/

@[simp] theorem State.setWindow_running (bay : Bay) (x : Window) : (s.setWindow bay x).running = s.running := rfl
@[simp] theorem State.setWindow_rackTime (bay : Bay) (x : Window) : (s.setWindow bay x).rackTime = s.rackTime := rfl
@[simp] theorem State.setWindow_inputs (bay : Bay) (x : Window) : (s.setWindow bay x).inputs = s.inputs := rfl
@[simp] theorem State.setWindow_emergency (bay : Bay) (x : Window) : (s.setWindow bay x).emergency = s.emergency := rfl
@[simp] theorem State.setWindow_bays (bay : Bay) (x : Window) : (s.setWindow bay x).bays = s.bays := rfl
@[simp] theorem State.setWindow_setups (bay : Bay) (x : Window) : (s.setWindow bay x).setups = s.setups := rfl
@[simp] theorem State.setWindow_sources (bay : Bay) (x : Window) : (s.setWindow bay x).sources = s.sources := rfl
@[simp] theorem State.setWindow_routes (bay : Bay) (x : Window) : (s.setWindow bay x).routes = s.routes := rfl
@[simp] theorem State.setWindow_settling (bay : Bay) (x : Window) : (s.setWindow bay x).settling = s.settling := rfl
@[simp] theorem State.setWindow_frames (bay : Bay) (x : Window) : (s.setWindow bay x).frames = s.frames := rfl
@[simp] theorem State.setWindow_nets (bay : Bay) (x : Window) : (s.setWindow bay x).nets = s.nets := rfl
@[simp] theorem State.setWindow_responses (bay : Bay) (x : Window) : (s.setWindow bay x).responses = s.responses := rfl
@[simp] theorem State.setWindow_monitor (bay : Bay) (x : Window) : (s.setWindow bay x).monitor = s.monitor := rfl
@[simp] theorem State.setWindow_meu (bay : Bay) (x : Window) : (s.setWindow bay x).meu = s.meu := rfl
@[simp] theorem State.setWindow_cal (bay : Bay) (x : Window) : (s.setWindow bay x).cal = s.cal := rfl
@[simp] theorem State.setWindow_limits (bay : Bay) (x : Window) : (s.setWindow bay x).limits = s.limits := rfl
@[simp] theorem State.setWindow_vlg (bay : Bay) (x : Window) : (s.setWindow bay x).vlg = s.vlg := rfl
@[simp] theorem State.setWindow_stats (bay : Bay) (x : Window) : (s.setWindow bay x).stats = s.stats := rfl
@[simp] theorem State.setWindow_odc (bay : Bay) (x : Window) : (s.setWindow bay x).odc = s.odc := rfl
@[simp] theorem State.setWindow_access (bay : Bay) (x : Window) : (s.setWindow bay x).access = s.access := rfl
@[simp] theorem State.setWindow_windows (bay : Bay) (x : Window) : (s.setWindow bay x).windows = s.windows.set bay x := rfl
@[simp] theorem State.setWindow_prus (bay : Bay) (x : Window) : (s.setWindow bay x).prus = s.prus := rfl
@[simp] theorem State.setWindow_attn (bay : Bay) (x : Window) : (s.setWindow bay x).attn = s.attn := rfl
@[simp] theorem State.setWindow_ports (bay : Bay) (x : Window) : (s.setWindow bay x).ports = s.ports := rfl
@[simp] theorem State.setWindow_store (bay : Bay) (x : Window) : (s.setWindow bay x).store = s.store := rfl
@[simp] theorem State.setWindow_choices (bay : Bay) (x : Window) : (s.setWindow bay x).choices = s.choices := rfl
@[simp] theorem State.setWindow_pending (bay : Bay) (x : Window) : (s.setWindow bay x).pending = s.pending := rfl

/-! ### setAccess -/

@[simp] theorem State.setAccess_running (m : Master) (x : Access) : (s.setAccess m x).running = s.running := rfl
@[simp] theorem State.setAccess_rackTime (m : Master) (x : Access) : (s.setAccess m x).rackTime = s.rackTime := rfl
@[simp] theorem State.setAccess_inputs (m : Master) (x : Access) : (s.setAccess m x).inputs = s.inputs := rfl
@[simp] theorem State.setAccess_emergency (m : Master) (x : Access) : (s.setAccess m x).emergency = s.emergency := rfl
@[simp] theorem State.setAccess_bays (m : Master) (x : Access) : (s.setAccess m x).bays = s.bays := rfl
@[simp] theorem State.setAccess_setups (m : Master) (x : Access) : (s.setAccess m x).setups = s.setups := rfl
@[simp] theorem State.setAccess_sources (m : Master) (x : Access) : (s.setAccess m x).sources = s.sources := rfl
@[simp] theorem State.setAccess_routes (m : Master) (x : Access) : (s.setAccess m x).routes = s.routes := rfl
@[simp] theorem State.setAccess_settling (m : Master) (x : Access) : (s.setAccess m x).settling = s.settling := rfl
@[simp] theorem State.setAccess_frames (m : Master) (x : Access) : (s.setAccess m x).frames = s.frames := rfl
@[simp] theorem State.setAccess_nets (m : Master) (x : Access) : (s.setAccess m x).nets = s.nets := rfl
@[simp] theorem State.setAccess_responses (m : Master) (x : Access) : (s.setAccess m x).responses = s.responses := rfl
@[simp] theorem State.setAccess_monitor (m : Master) (x : Access) : (s.setAccess m x).monitor = s.monitor := rfl
@[simp] theorem State.setAccess_meu (m : Master) (x : Access) : (s.setAccess m x).meu = s.meu := rfl
@[simp] theorem State.setAccess_cal (m : Master) (x : Access) : (s.setAccess m x).cal = s.cal := rfl
@[simp] theorem State.setAccess_limits (m : Master) (x : Access) : (s.setAccess m x).limits = s.limits := rfl
@[simp] theorem State.setAccess_vlg (m : Master) (x : Access) : (s.setAccess m x).vlg = s.vlg := rfl
@[simp] theorem State.setAccess_stats (m : Master) (x : Access) : (s.setAccess m x).stats = s.stats := rfl
@[simp] theorem State.setAccess_odc (m : Master) (x : Access) : (s.setAccess m x).odc = s.odc := rfl
@[simp] theorem State.setAccess_access (m : Master) (x : Access) : (s.setAccess m x).access = s.access.set m x := rfl
@[simp] theorem State.setAccess_windows (m : Master) (x : Access) : (s.setAccess m x).windows = s.windows := rfl
@[simp] theorem State.setAccess_prus (m : Master) (x : Access) : (s.setAccess m x).prus = s.prus := rfl
@[simp] theorem State.setAccess_attn (m : Master) (x : Access) : (s.setAccess m x).attn = s.attn := rfl
@[simp] theorem State.setAccess_ports (m : Master) (x : Access) : (s.setAccess m x).ports = s.ports := rfl
@[simp] theorem State.setAccess_store (m : Master) (x : Access) : (s.setAccess m x).store = s.store := rfl
@[simp] theorem State.setAccess_choices (m : Master) (x : Access) : (s.setAccess m x).choices = s.choices := rfl
@[simp] theorem State.setAccess_pending (m : Master) (x : Access) : (s.setAccess m x).pending = s.pending := rfl

/-! ### setMeu -/

@[simp] theorem State.setMeu_running (x : Meu) : (s.setMeu x).running = s.running := rfl
@[simp] theorem State.setMeu_rackTime (x : Meu) : (s.setMeu x).rackTime = s.rackTime := rfl
@[simp] theorem State.setMeu_inputs (x : Meu) : (s.setMeu x).inputs = s.inputs := rfl
@[simp] theorem State.setMeu_emergency (x : Meu) : (s.setMeu x).emergency = s.emergency := rfl
@[simp] theorem State.setMeu_bays (x : Meu) : (s.setMeu x).bays = s.bays := rfl
@[simp] theorem State.setMeu_setups (x : Meu) : (s.setMeu x).setups = s.setups := rfl
@[simp] theorem State.setMeu_sources (x : Meu) : (s.setMeu x).sources = s.sources := rfl
@[simp] theorem State.setMeu_routes (x : Meu) : (s.setMeu x).routes = s.routes := rfl
@[simp] theorem State.setMeu_settling (x : Meu) : (s.setMeu x).settling = s.settling := rfl
@[simp] theorem State.setMeu_frames (x : Meu) : (s.setMeu x).frames = s.frames := rfl
@[simp] theorem State.setMeu_nets (x : Meu) : (s.setMeu x).nets = s.nets := rfl
@[simp] theorem State.setMeu_responses (x : Meu) : (s.setMeu x).responses = s.responses := rfl
@[simp] theorem State.setMeu_monitor (x : Meu) : (s.setMeu x).monitor = s.monitor := rfl
@[simp] theorem State.setMeu_meu (x : Meu) : (s.setMeu x).meu = x := rfl
@[simp] theorem State.setMeu_cal (x : Meu) : (s.setMeu x).cal = s.cal := rfl
@[simp] theorem State.setMeu_limits (x : Meu) : (s.setMeu x).limits = s.limits := rfl
@[simp] theorem State.setMeu_vlg (x : Meu) : (s.setMeu x).vlg = s.vlg := rfl
@[simp] theorem State.setMeu_stats (x : Meu) : (s.setMeu x).stats = s.stats := rfl
@[simp] theorem State.setMeu_odc (x : Meu) : (s.setMeu x).odc = s.odc := rfl
@[simp] theorem State.setMeu_access (x : Meu) : (s.setMeu x).access = s.access := rfl
@[simp] theorem State.setMeu_windows (x : Meu) : (s.setMeu x).windows = s.windows := rfl
@[simp] theorem State.setMeu_prus (x : Meu) : (s.setMeu x).prus = s.prus := rfl
@[simp] theorem State.setMeu_attn (x : Meu) : (s.setMeu x).attn = s.attn := rfl
@[simp] theorem State.setMeu_ports (x : Meu) : (s.setMeu x).ports = s.ports := rfl
@[simp] theorem State.setMeu_store (x : Meu) : (s.setMeu x).store = s.store := rfl
@[simp] theorem State.setMeu_choices (x : Meu) : (s.setMeu x).choices = s.choices := rfl
@[simp] theorem State.setMeu_pending (x : Meu) : (s.setMeu x).pending = s.pending := rfl

/-! ### setClaim -/

@[simp] theorem State.setClaim_running (m : Master) (c : Claim) : (s.setClaim m c).running = s.running := rfl
@[simp] theorem State.setClaim_rackTime (m : Master) (c : Claim) : (s.setClaim m c).rackTime = s.rackTime := rfl
@[simp] theorem State.setClaim_inputs (m : Master) (c : Claim) : (s.setClaim m c).inputs = s.inputs := rfl
@[simp] theorem State.setClaim_emergency (m : Master) (c : Claim) : (s.setClaim m c).emergency = s.emergency := rfl
@[simp] theorem State.setClaim_bays (m : Master) (c : Claim) : (s.setClaim m c).bays = s.bays := rfl
@[simp] theorem State.setClaim_setups (m : Master) (c : Claim) : (s.setClaim m c).setups = s.setups := rfl
@[simp] theorem State.setClaim_sources (m : Master) (c : Claim) : (s.setClaim m c).sources = s.sources := rfl
@[simp] theorem State.setClaim_routes (m : Master) (c : Claim) : (s.setClaim m c).routes = s.routes := rfl
@[simp] theorem State.setClaim_settling (m : Master) (c : Claim) : (s.setClaim m c).settling = s.settling := rfl
@[simp] theorem State.setClaim_frames (m : Master) (c : Claim) : (s.setClaim m c).frames = s.frames := rfl
@[simp] theorem State.setClaim_nets (m : Master) (c : Claim) : (s.setClaim m c).nets = s.nets := rfl
@[simp] theorem State.setClaim_responses (m : Master) (c : Claim) : (s.setClaim m c).responses = s.responses := rfl
@[simp] theorem State.setClaim_monitor (m : Master) (c : Claim) : (s.setClaim m c).monitor = s.monitor := rfl
@[simp] theorem State.setClaim_meu (m : Master) (c : Claim) : (s.setClaim m c).meu = { s.meu with claims := s.meu.claims.set m c } := rfl
@[simp] theorem State.setClaim_cal (m : Master) (c : Claim) : (s.setClaim m c).cal = s.cal := rfl
@[simp] theorem State.setClaim_limits (m : Master) (c : Claim) : (s.setClaim m c).limits = s.limits := rfl
@[simp] theorem State.setClaim_vlg (m : Master) (c : Claim) : (s.setClaim m c).vlg = s.vlg := rfl
@[simp] theorem State.setClaim_stats (m : Master) (c : Claim) : (s.setClaim m c).stats = s.stats := rfl
@[simp] theorem State.setClaim_odc (m : Master) (c : Claim) : (s.setClaim m c).odc = s.odc := rfl
@[simp] theorem State.setClaim_access (m : Master) (c : Claim) : (s.setClaim m c).access = s.access := rfl
@[simp] theorem State.setClaim_windows (m : Master) (c : Claim) : (s.setClaim m c).windows = s.windows := rfl
@[simp] theorem State.setClaim_prus (m : Master) (c : Claim) : (s.setClaim m c).prus = s.prus := rfl
@[simp] theorem State.setClaim_attn (m : Master) (c : Claim) : (s.setClaim m c).attn = s.attn := rfl
@[simp] theorem State.setClaim_ports (m : Master) (c : Claim) : (s.setClaim m c).ports = s.ports := rfl
@[simp] theorem State.setClaim_store (m : Master) (c : Claim) : (s.setClaim m c).store = s.store := rfl
@[simp] theorem State.setClaim_choices (m : Master) (c : Claim) : (s.setClaim m c).choices = s.choices := rfl
@[simp] theorem State.setClaim_pending (m : Master) (c : Claim) : (s.setClaim m c).pending = s.pending := rfl

/-! ### setVlg -/

@[simp] theorem State.setVlg_running (x : Vlg) : (s.setVlg x).running = s.running := rfl
@[simp] theorem State.setVlg_rackTime (x : Vlg) : (s.setVlg x).rackTime = s.rackTime := rfl
@[simp] theorem State.setVlg_inputs (x : Vlg) : (s.setVlg x).inputs = s.inputs := rfl
@[simp] theorem State.setVlg_emergency (x : Vlg) : (s.setVlg x).emergency = s.emergency := rfl
@[simp] theorem State.setVlg_bays (x : Vlg) : (s.setVlg x).bays = s.bays := rfl
@[simp] theorem State.setVlg_setups (x : Vlg) : (s.setVlg x).setups = s.setups := rfl
@[simp] theorem State.setVlg_sources (x : Vlg) : (s.setVlg x).sources = s.sources := rfl
@[simp] theorem State.setVlg_routes (x : Vlg) : (s.setVlg x).routes = s.routes := rfl
@[simp] theorem State.setVlg_settling (x : Vlg) : (s.setVlg x).settling = s.settling := rfl
@[simp] theorem State.setVlg_frames (x : Vlg) : (s.setVlg x).frames = s.frames := rfl
@[simp] theorem State.setVlg_nets (x : Vlg) : (s.setVlg x).nets = s.nets := rfl
@[simp] theorem State.setVlg_responses (x : Vlg) : (s.setVlg x).responses = s.responses := rfl
@[simp] theorem State.setVlg_monitor (x : Vlg) : (s.setVlg x).monitor = s.monitor := rfl
@[simp] theorem State.setVlg_meu (x : Vlg) : (s.setVlg x).meu = s.meu := rfl
@[simp] theorem State.setVlg_cal (x : Vlg) : (s.setVlg x).cal = s.cal := rfl
@[simp] theorem State.setVlg_limits (x : Vlg) : (s.setVlg x).limits = s.limits := rfl
@[simp] theorem State.setVlg_vlg (x : Vlg) : (s.setVlg x).vlg = x := rfl
@[simp] theorem State.setVlg_stats (x : Vlg) : (s.setVlg x).stats = s.stats := rfl
@[simp] theorem State.setVlg_odc (x : Vlg) : (s.setVlg x).odc = s.odc := rfl
@[simp] theorem State.setVlg_access (x : Vlg) : (s.setVlg x).access = s.access := rfl
@[simp] theorem State.setVlg_windows (x : Vlg) : (s.setVlg x).windows = s.windows := rfl
@[simp] theorem State.setVlg_prus (x : Vlg) : (s.setVlg x).prus = s.prus := rfl
@[simp] theorem State.setVlg_attn (x : Vlg) : (s.setVlg x).attn = s.attn := rfl
@[simp] theorem State.setVlg_ports (x : Vlg) : (s.setVlg x).ports = s.ports := rfl
@[simp] theorem State.setVlg_store (x : Vlg) : (s.setVlg x).store = s.store := rfl
@[simp] theorem State.setVlg_choices (x : Vlg) : (s.setVlg x).choices = s.choices := rfl
@[simp] theorem State.setVlg_pending (x : Vlg) : (s.setVlg x).pending = s.pending := rfl

/-! ### release -/

@[simp] theorem State.release_running (h : Holder) : (s.release h).running = s.running := rfl
@[simp] theorem State.release_rackTime (h : Holder) : (s.release h).rackTime = s.rackTime := rfl
@[simp] theorem State.release_inputs (h : Holder) : (s.release h).inputs = s.inputs := rfl
@[simp] theorem State.release_emergency (h : Holder) : (s.release h).emergency = s.emergency := rfl
@[simp] theorem State.release_bays (h : Holder) : (s.release h).bays = s.bays := rfl
@[simp] theorem State.release_setups (h : Holder) : (s.release h).setups = s.setups := rfl
@[simp] theorem State.release_sources (h : Holder) : (s.release h).sources = s.sources := rfl
@[simp] theorem State.release_routes (h : Holder) : (s.release h).routes = s.routes := rfl
@[simp] theorem State.release_settling (h : Holder) : (s.release h).settling = s.settling := rfl
@[simp] theorem State.release_frames (h : Holder) : (s.release h).frames = s.frames := rfl
@[simp] theorem State.release_nets (h : Holder) : (s.release h).nets = s.nets := rfl
@[simp] theorem State.release_responses (h : Holder) : (s.release h).responses = s.responses := rfl
@[simp] theorem State.release_monitor (h : Holder) : (s.release h).monitor = s.monitor := rfl
@[simp] theorem State.release_meu (h : Holder) : (s.release h).meu = s.meu := rfl
@[simp] theorem State.release_cal (h : Holder) : (s.release h).cal = s.cal := rfl
@[simp] theorem State.release_limits (h : Holder) : (s.release h).limits = s.limits := rfl
@[simp] theorem State.release_vlg (h : Holder) : (s.release h).vlg = s.vlg.unreserve h := rfl
@[simp] theorem State.release_stats (h : Holder) : (s.release h).stats = s.stats := rfl
@[simp] theorem State.release_odc (h : Holder) : (s.release h).odc = s.odc := rfl
@[simp] theorem State.release_access (h : Holder) : (s.release h).access = s.access := rfl
@[simp] theorem State.release_windows (h : Holder) : (s.release h).windows = s.windows := rfl
@[simp] theorem State.release_prus (h : Holder) : (s.release h).prus = s.prus := rfl
@[simp] theorem State.release_attn (h : Holder) : (s.release h).attn = s.attn := rfl
@[simp] theorem State.release_ports (h : Holder) : (s.release h).ports = s.ports := rfl
@[simp] theorem State.release_store (h : Holder) : (s.release h).store = s.store := rfl
@[simp] theorem State.release_choices (h : Holder) : (s.release h).choices = s.choices := rfl
@[simp] theorem State.release_pending (h : Holder) : (s.release h).pending = s.pending := rfl

/-! ### setSource -/

@[simp] theorem State.setSource_running (i : Fin 8) (x : Source) : (s.setSource i x).running = s.running := rfl
@[simp] theorem State.setSource_rackTime (i : Fin 8) (x : Source) : (s.setSource i x).rackTime = s.rackTime := rfl
@[simp] theorem State.setSource_inputs (i : Fin 8) (x : Source) : (s.setSource i x).inputs = s.inputs := rfl
@[simp] theorem State.setSource_emergency (i : Fin 8) (x : Source) : (s.setSource i x).emergency = s.emergency := rfl
@[simp] theorem State.setSource_bays (i : Fin 8) (x : Source) : (s.setSource i x).bays = s.bays := rfl
@[simp] theorem State.setSource_setups (i : Fin 8) (x : Source) : (s.setSource i x).setups = s.setups := rfl
@[simp] theorem State.setSource_sources (i : Fin 8) (x : Source) : (s.setSource i x).sources = Table.write {} s.sources i.val x := rfl
@[simp] theorem State.setSource_routes (i : Fin 8) (x : Source) : (s.setSource i x).routes = s.routes := rfl
@[simp] theorem State.setSource_settling (i : Fin 8) (x : Source) : (s.setSource i x).settling = s.settling := rfl
@[simp] theorem State.setSource_frames (i : Fin 8) (x : Source) : (s.setSource i x).frames = s.frames := rfl
@[simp] theorem State.setSource_nets (i : Fin 8) (x : Source) : (s.setSource i x).nets = s.nets := rfl
@[simp] theorem State.setSource_responses (i : Fin 8) (x : Source) : (s.setSource i x).responses = s.responses := rfl
@[simp] theorem State.setSource_monitor (i : Fin 8) (x : Source) : (s.setSource i x).monitor = s.monitor := rfl
@[simp] theorem State.setSource_meu (i : Fin 8) (x : Source) : (s.setSource i x).meu = s.meu := rfl
@[simp] theorem State.setSource_cal (i : Fin 8) (x : Source) : (s.setSource i x).cal = s.cal := rfl
@[simp] theorem State.setSource_limits (i : Fin 8) (x : Source) : (s.setSource i x).limits = s.limits := rfl
@[simp] theorem State.setSource_vlg (i : Fin 8) (x : Source) : (s.setSource i x).vlg = s.vlg := rfl
@[simp] theorem State.setSource_stats (i : Fin 8) (x : Source) : (s.setSource i x).stats = s.stats := rfl
@[simp] theorem State.setSource_odc (i : Fin 8) (x : Source) : (s.setSource i x).odc = s.odc := rfl
@[simp] theorem State.setSource_access (i : Fin 8) (x : Source) : (s.setSource i x).access = s.access := rfl
@[simp] theorem State.setSource_windows (i : Fin 8) (x : Source) : (s.setSource i x).windows = s.windows := rfl
@[simp] theorem State.setSource_prus (i : Fin 8) (x : Source) : (s.setSource i x).prus = s.prus := rfl
@[simp] theorem State.setSource_attn (i : Fin 8) (x : Source) : (s.setSource i x).attn = s.attn := rfl
@[simp] theorem State.setSource_ports (i : Fin 8) (x : Source) : (s.setSource i x).ports = s.ports := rfl
@[simp] theorem State.setSource_store (i : Fin 8) (x : Source) : (s.setSource i x).store = s.store := rfl
@[simp] theorem State.setSource_choices (i : Fin 8) (x : Source) : (s.setSource i x).choices = s.choices := rfl
@[simp] theorem State.setSource_pending (i : Fin 8) (x : Source) : (s.setSource i x).pending = s.pending := rfl

/-! ### repark -/

@[simp] theorem State.repark_running : s.repark.running = s.running := rfl
@[simp] theorem State.repark_rackTime : s.repark.rackTime = s.rackTime := rfl
@[simp] theorem State.repark_inputs : s.repark.inputs = s.inputs := rfl
@[simp] theorem State.repark_emergency : s.repark.emergency = s.emergency := rfl
@[simp] theorem State.repark_bays : s.repark.bays = s.bays := rfl
@[simp] theorem State.repark_setups : s.repark.setups = s.setups := rfl
@[simp] theorem State.repark_sources : s.repark.sources = Table.mapAll {} (fun i x => x.repark (s.mustPark i x)) s.sources := rfl
@[simp] theorem State.repark_routes : s.repark.routes = s.routes := rfl
@[simp] theorem State.repark_settling : s.repark.settling = s.settling := rfl
@[simp] theorem State.repark_frames : s.repark.frames = s.frames := rfl
@[simp] theorem State.repark_nets : s.repark.nets = s.nets := rfl
@[simp] theorem State.repark_responses : s.repark.responses = s.responses := rfl
@[simp] theorem State.repark_monitor : s.repark.monitor = s.monitor := rfl
@[simp] theorem State.repark_meu : s.repark.meu = s.meu := rfl
@[simp] theorem State.repark_cal : s.repark.cal = s.cal := rfl
@[simp] theorem State.repark_limits : s.repark.limits = s.limits := rfl
@[simp] theorem State.repark_vlg : s.repark.vlg = s.vlg := rfl
@[simp] theorem State.repark_stats : s.repark.stats = s.stats := rfl
@[simp] theorem State.repark_odc : s.repark.odc = s.odc := rfl
@[simp] theorem State.repark_access : s.repark.access = s.access := rfl
@[simp] theorem State.repark_windows : s.repark.windows = s.windows := rfl
@[simp] theorem State.repark_prus : s.repark.prus = s.prus := rfl
@[simp] theorem State.repark_attn : s.repark.attn = s.attn := rfl
@[simp] theorem State.repark_ports : s.repark.ports = s.ports := rfl
@[simp] theorem State.repark_store : s.repark.store = s.store := rfl
@[simp] theorem State.repark_choices : s.repark.choices = s.choices := rfl
@[simp] theorem State.repark_pending : s.repark.pending = s.pending := rfl

/-! ### openRoutes -/

@[simp] theorem State.openRoutes_running (p : Route → Bool) : (s.openRoutes p).running = s.running := rfl
@[simp] theorem State.openRoutes_rackTime (p : Route → Bool) : (s.openRoutes p).rackTime = s.rackTime := rfl
@[simp] theorem State.openRoutes_inputs (p : Route → Bool) : (s.openRoutes p).inputs = s.inputs := rfl
@[simp] theorem State.openRoutes_emergency (p : Route → Bool) : (s.openRoutes p).emergency = s.emergency := rfl
@[simp] theorem State.openRoutes_bays (p : Route → Bool) : (s.openRoutes p).bays = s.bays := rfl
@[simp] theorem State.openRoutes_setups (p : Route → Bool) : (s.openRoutes p).setups = s.setups := rfl
@[simp] theorem State.openRoutes_sources (p : Route → Bool) : (s.openRoutes p).sources = s.sources := rfl
@[simp] theorem State.openRoutes_routes (p : Route → Bool) : (s.openRoutes p).routes = s.routes.map fun r => if p r then r.command s.rackTime else r := rfl
@[simp] theorem State.openRoutes_settling (p : Route → Bool) : (s.openRoutes p).settling = s.settling := rfl
@[simp] theorem State.openRoutes_frames (p : Route → Bool) : (s.openRoutes p).frames = s.frames := rfl
@[simp] theorem State.openRoutes_nets (p : Route → Bool) : (s.openRoutes p).nets = s.nets := rfl
@[simp] theorem State.openRoutes_responses (p : Route → Bool) : (s.openRoutes p).responses = s.responses := rfl
@[simp] theorem State.openRoutes_monitor (p : Route → Bool) : (s.openRoutes p).monitor = s.monitor := rfl
@[simp] theorem State.openRoutes_meu (p : Route → Bool) : (s.openRoutes p).meu = s.meu := rfl
@[simp] theorem State.openRoutes_cal (p : Route → Bool) : (s.openRoutes p).cal = s.cal := rfl
@[simp] theorem State.openRoutes_limits (p : Route → Bool) : (s.openRoutes p).limits = s.limits := rfl
@[simp] theorem State.openRoutes_vlg (p : Route → Bool) : (s.openRoutes p).vlg = s.vlg := rfl
@[simp] theorem State.openRoutes_stats (p : Route → Bool) : (s.openRoutes p).stats = s.stats := rfl
@[simp] theorem State.openRoutes_odc (p : Route → Bool) : (s.openRoutes p).odc = s.odc := rfl
@[simp] theorem State.openRoutes_access (p : Route → Bool) : (s.openRoutes p).access = s.access := rfl
@[simp] theorem State.openRoutes_windows (p : Route → Bool) : (s.openRoutes p).windows = s.windows := rfl
@[simp] theorem State.openRoutes_prus (p : Route → Bool) : (s.openRoutes p).prus = s.prus := rfl
@[simp] theorem State.openRoutes_attn (p : Route → Bool) : (s.openRoutes p).attn = s.attn := rfl
@[simp] theorem State.openRoutes_ports (p : Route → Bool) : (s.openRoutes p).ports = s.ports := rfl
@[simp] theorem State.openRoutes_store (p : Route → Bool) : (s.openRoutes p).store = s.store := rfl
@[simp] theorem State.openRoutes_choices (p : Route → Bool) : (s.openRoutes p).choices = s.choices := rfl
@[simp] theorem State.openRoutes_pending (p : Route → Bool) : (s.openRoutes p).pending = s.pending := rfl

/-! ### setInput -/

@[simp] theorem State.setInput_running (bay : Bay) (f : Inputs → Inputs) : (s.setInput bay f).running = s.running := rfl
@[simp] theorem State.setInput_rackTime (bay : Bay) (f : Inputs → Inputs) : (s.setInput bay f).rackTime = s.rackTime := rfl
@[simp] theorem State.setInput_inputs (bay : Bay) (f : Inputs → Inputs) : (s.setInput bay f).inputs = s.inputs.set bay (f (s.inputs.get bay)) := rfl
@[simp] theorem State.setInput_emergency (bay : Bay) (f : Inputs → Inputs) : (s.setInput bay f).emergency = s.emergency := rfl
@[simp] theorem State.setInput_bays (bay : Bay) (f : Inputs → Inputs) : (s.setInput bay f).bays = s.bays := rfl
@[simp] theorem State.setInput_setups (bay : Bay) (f : Inputs → Inputs) : (s.setInput bay f).setups = s.setups := rfl
@[simp] theorem State.setInput_sources (bay : Bay) (f : Inputs → Inputs) : (s.setInput bay f).sources = s.sources := rfl
@[simp] theorem State.setInput_routes (bay : Bay) (f : Inputs → Inputs) : (s.setInput bay f).routes = s.routes := rfl
@[simp] theorem State.setInput_settling (bay : Bay) (f : Inputs → Inputs) : (s.setInput bay f).settling = s.settling := rfl
@[simp] theorem State.setInput_frames (bay : Bay) (f : Inputs → Inputs) : (s.setInput bay f).frames = s.frames := rfl
@[simp] theorem State.setInput_nets (bay : Bay) (f : Inputs → Inputs) : (s.setInput bay f).nets = s.nets := rfl
@[simp] theorem State.setInput_responses (bay : Bay) (f : Inputs → Inputs) : (s.setInput bay f).responses = s.responses := rfl
@[simp] theorem State.setInput_monitor (bay : Bay) (f : Inputs → Inputs) : (s.setInput bay f).monitor = s.monitor := rfl
@[simp] theorem State.setInput_meu (bay : Bay) (f : Inputs → Inputs) : (s.setInput bay f).meu = s.meu := rfl
@[simp] theorem State.setInput_cal (bay : Bay) (f : Inputs → Inputs) : (s.setInput bay f).cal = s.cal := rfl
@[simp] theorem State.setInput_limits (bay : Bay) (f : Inputs → Inputs) : (s.setInput bay f).limits = s.limits := rfl
@[simp] theorem State.setInput_vlg (bay : Bay) (f : Inputs → Inputs) : (s.setInput bay f).vlg = s.vlg := rfl
@[simp] theorem State.setInput_stats (bay : Bay) (f : Inputs → Inputs) : (s.setInput bay f).stats = s.stats := rfl
@[simp] theorem State.setInput_odc (bay : Bay) (f : Inputs → Inputs) : (s.setInput bay f).odc = s.odc := rfl
@[simp] theorem State.setInput_access (bay : Bay) (f : Inputs → Inputs) : (s.setInput bay f).access = s.access := rfl
@[simp] theorem State.setInput_windows (bay : Bay) (f : Inputs → Inputs) : (s.setInput bay f).windows = s.windows := rfl
@[simp] theorem State.setInput_prus (bay : Bay) (f : Inputs → Inputs) : (s.setInput bay f).prus = s.prus := rfl
@[simp] theorem State.setInput_attn (bay : Bay) (f : Inputs → Inputs) : (s.setInput bay f).attn = s.attn := rfl
@[simp] theorem State.setInput_ports (bay : Bay) (f : Inputs → Inputs) : (s.setInput bay f).ports = s.ports := rfl
@[simp] theorem State.setInput_store (bay : Bay) (f : Inputs → Inputs) : (s.setInput bay f).store = s.store := rfl
@[simp] theorem State.setInput_choices (bay : Bay) (f : Inputs → Inputs) : (s.setInput bay f).choices = s.choices := rfl
@[simp] theorem State.setInput_pending (bay : Bay) (f : Inputs → Inputs) : (s.setInput bay f).pending = s.pending := rfl

/-! ### count -/

@[simp] theorem State.count_running (bay : Bay) (c : Stat) : (s.count bay c).running = s.running := rfl
@[simp] theorem State.count_rackTime (bay : Bay) (c : Stat) : (s.count bay c).rackTime = s.rackTime := rfl
@[simp] theorem State.count_inputs (bay : Bay) (c : Stat) : (s.count bay c).inputs = s.inputs := rfl
@[simp] theorem State.count_emergency (bay : Bay) (c : Stat) : (s.count bay c).emergency = s.emergency := rfl
@[simp] theorem State.count_bays (bay : Bay) (c : Stat) : (s.count bay c).bays = s.bays := rfl
@[simp] theorem State.count_setups (bay : Bay) (c : Stat) : (s.count bay c).setups = s.setups := rfl
@[simp] theorem State.count_sources (bay : Bay) (c : Stat) : (s.count bay c).sources = s.sources := rfl
@[simp] theorem State.count_routes (bay : Bay) (c : Stat) : (s.count bay c).routes = s.routes := rfl
@[simp] theorem State.count_settling (bay : Bay) (c : Stat) : (s.count bay c).settling = s.settling := rfl
@[simp] theorem State.count_frames (bay : Bay) (c : Stat) : (s.count bay c).frames = s.frames := rfl
@[simp] theorem State.count_nets (bay : Bay) (c : Stat) : (s.count bay c).nets = s.nets := rfl
@[simp] theorem State.count_responses (bay : Bay) (c : Stat) : (s.count bay c).responses = s.responses := rfl
@[simp] theorem State.count_monitor (bay : Bay) (c : Stat) : (s.count bay c).monitor = s.monitor := rfl
@[simp] theorem State.count_meu (bay : Bay) (c : Stat) : (s.count bay c).meu = s.meu := rfl
@[simp] theorem State.count_cal (bay : Bay) (c : Stat) : (s.count bay c).cal = s.cal := rfl
@[simp] theorem State.count_limits (bay : Bay) (c : Stat) : (s.count bay c).limits = s.limits := rfl
@[simp] theorem State.count_vlg (bay : Bay) (c : Stat) : (s.count bay c).vlg = s.vlg := rfl
@[simp] theorem State.count_stats (bay : Bay) (c : Stat) : (s.count bay c).stats = s.stats.set bay (Table.write 0 (s.stats.get bay) c.index (bumpTo 4294967295 (s.stat bay c))) := rfl
@[simp] theorem State.count_odc (bay : Bay) (c : Stat) : (s.count bay c).odc = s.odc := rfl
@[simp] theorem State.count_access (bay : Bay) (c : Stat) : (s.count bay c).access = s.access := rfl
@[simp] theorem State.count_windows (bay : Bay) (c : Stat) : (s.count bay c).windows = s.windows := rfl
@[simp] theorem State.count_prus (bay : Bay) (c : Stat) : (s.count bay c).prus = s.prus := rfl
@[simp] theorem State.count_attn (bay : Bay) (c : Stat) : (s.count bay c).attn = s.attn := rfl
@[simp] theorem State.count_ports (bay : Bay) (c : Stat) : (s.count bay c).ports = s.ports := rfl
@[simp] theorem State.count_store (bay : Bay) (c : Stat) : (s.count bay c).store = s.store := rfl
@[simp] theorem State.count_choices (bay : Bay) (c : Stat) : (s.count bay c).choices = s.choices := rfl
@[simp] theorem State.count_pending (bay : Bay) (c : Stat) : (s.count bay c).pending = s.pending := rfl

/-! ### setResp -/

@[simp] theorem State.setResp_running (i : Nat) (x : Option Resp) : (s.setResp i x).running = s.running := rfl
@[simp] theorem State.setResp_rackTime (i : Nat) (x : Option Resp) : (s.setResp i x).rackTime = s.rackTime := rfl
@[simp] theorem State.setResp_inputs (i : Nat) (x : Option Resp) : (s.setResp i x).inputs = s.inputs := rfl
@[simp] theorem State.setResp_emergency (i : Nat) (x : Option Resp) : (s.setResp i x).emergency = s.emergency := rfl
@[simp] theorem State.setResp_bays (i : Nat) (x : Option Resp) : (s.setResp i x).bays = s.bays := rfl
@[simp] theorem State.setResp_setups (i : Nat) (x : Option Resp) : (s.setResp i x).setups = s.setups := rfl
@[simp] theorem State.setResp_sources (i : Nat) (x : Option Resp) : (s.setResp i x).sources = s.sources := rfl
@[simp] theorem State.setResp_routes (i : Nat) (x : Option Resp) : (s.setResp i x).routes = s.routes := rfl
@[simp] theorem State.setResp_settling (i : Nat) (x : Option Resp) : (s.setResp i x).settling = s.settling := rfl
@[simp] theorem State.setResp_frames (i : Nat) (x : Option Resp) : (s.setResp i x).frames = s.frames := rfl
@[simp] theorem State.setResp_nets (i : Nat) (x : Option Resp) : (s.setResp i x).nets = s.nets := rfl
@[simp] theorem State.setResp_responses (i : Nat) (x : Option Resp) : (s.setResp i x).responses = Table.write none s.responses i x := rfl
@[simp] theorem State.setResp_monitor (i : Nat) (x : Option Resp) : (s.setResp i x).monitor = s.monitor := rfl
@[simp] theorem State.setResp_meu (i : Nat) (x : Option Resp) : (s.setResp i x).meu = s.meu := rfl
@[simp] theorem State.setResp_cal (i : Nat) (x : Option Resp) : (s.setResp i x).cal = s.cal := rfl
@[simp] theorem State.setResp_limits (i : Nat) (x : Option Resp) : (s.setResp i x).limits = s.limits := rfl
@[simp] theorem State.setResp_vlg (i : Nat) (x : Option Resp) : (s.setResp i x).vlg = s.vlg := rfl
@[simp] theorem State.setResp_stats (i : Nat) (x : Option Resp) : (s.setResp i x).stats = s.stats := rfl
@[simp] theorem State.setResp_odc (i : Nat) (x : Option Resp) : (s.setResp i x).odc = s.odc := rfl
@[simp] theorem State.setResp_access (i : Nat) (x : Option Resp) : (s.setResp i x).access = s.access := rfl
@[simp] theorem State.setResp_windows (i : Nat) (x : Option Resp) : (s.setResp i x).windows = s.windows := rfl
@[simp] theorem State.setResp_prus (i : Nat) (x : Option Resp) : (s.setResp i x).prus = s.prus := rfl
@[simp] theorem State.setResp_attn (i : Nat) (x : Option Resp) : (s.setResp i x).attn = s.attn := rfl
@[simp] theorem State.setResp_ports (i : Nat) (x : Option Resp) : (s.setResp i x).ports = s.ports := rfl
@[simp] theorem State.setResp_store (i : Nat) (x : Option Resp) : (s.setResp i x).store = s.store := rfl
@[simp] theorem State.setResp_choices (i : Nat) (x : Option Resp) : (s.setResp i x).choices = s.choices := rfl
@[simp] theorem State.setResp_pending (i : Nat) (x : Option Resp) : (s.setResp i x).pending = s.pending := rfl

/-! ### mapResp -/

@[simp] theorem State.mapResp_running (f : Resp → Option Resp) : (s.mapResp f).running = s.running := rfl
@[simp] theorem State.mapResp_rackTime (f : Resp → Option Resp) : (s.mapResp f).rackTime = s.rackTime := rfl
@[simp] theorem State.mapResp_inputs (f : Resp → Option Resp) : (s.mapResp f).inputs = s.inputs := rfl
@[simp] theorem State.mapResp_emergency (f : Resp → Option Resp) : (s.mapResp f).emergency = s.emergency := rfl
@[simp] theorem State.mapResp_bays (f : Resp → Option Resp) : (s.mapResp f).bays = s.bays := rfl
@[simp] theorem State.mapResp_setups (f : Resp → Option Resp) : (s.mapResp f).setups = s.setups := rfl
@[simp] theorem State.mapResp_sources (f : Resp → Option Resp) : (s.mapResp f).sources = s.sources := rfl
@[simp] theorem State.mapResp_routes (f : Resp → Option Resp) : (s.mapResp f).routes = s.routes := rfl
@[simp] theorem State.mapResp_settling (f : Resp → Option Resp) : (s.mapResp f).settling = s.settling := rfl
@[simp] theorem State.mapResp_frames (f : Resp → Option Resp) : (s.mapResp f).frames = s.frames := rfl
@[simp] theorem State.mapResp_nets (f : Resp → Option Resp) : (s.mapResp f).nets = s.nets := rfl
@[simp] theorem State.mapResp_responses (f : Resp → Option Resp) : (s.mapResp f).responses = Table.mapAll none (fun _ x => x.bind f) s.responses := rfl
@[simp] theorem State.mapResp_monitor (f : Resp → Option Resp) : (s.mapResp f).monitor = s.monitor := rfl
@[simp] theorem State.mapResp_meu (f : Resp → Option Resp) : (s.mapResp f).meu = s.meu := rfl
@[simp] theorem State.mapResp_cal (f : Resp → Option Resp) : (s.mapResp f).cal = s.cal := rfl
@[simp] theorem State.mapResp_limits (f : Resp → Option Resp) : (s.mapResp f).limits = s.limits := rfl
@[simp] theorem State.mapResp_vlg (f : Resp → Option Resp) : (s.mapResp f).vlg = s.vlg := rfl
@[simp] theorem State.mapResp_stats (f : Resp → Option Resp) : (s.mapResp f).stats = s.stats := rfl
@[simp] theorem State.mapResp_odc (f : Resp → Option Resp) : (s.mapResp f).odc = s.odc := rfl
@[simp] theorem State.mapResp_access (f : Resp → Option Resp) : (s.mapResp f).access = s.access := rfl
@[simp] theorem State.mapResp_windows (f : Resp → Option Resp) : (s.mapResp f).windows = s.windows := rfl
@[simp] theorem State.mapResp_prus (f : Resp → Option Resp) : (s.mapResp f).prus = s.prus := rfl
@[simp] theorem State.mapResp_attn (f : Resp → Option Resp) : (s.mapResp f).attn = s.attn := rfl
@[simp] theorem State.mapResp_ports (f : Resp → Option Resp) : (s.mapResp f).ports = s.ports := rfl
@[simp] theorem State.mapResp_store (f : Resp → Option Resp) : (s.mapResp f).store = s.store := rfl
@[simp] theorem State.mapResp_choices (f : Resp → Option Resp) : (s.mapResp f).choices = s.choices := rfl
@[simp] theorem State.mapResp_pending (f : Resp → Option Resp) : (s.mapResp f).pending = s.pending := rfl

/-! ### selectIdle -/

@[simp] theorem State.selectIdle_running (bay : Bay) : (s.selectIdle bay).running = s.running := rfl
@[simp] theorem State.selectIdle_rackTime (bay : Bay) : (s.selectIdle bay).rackTime = s.rackTime := rfl
@[simp] theorem State.selectIdle_inputs (bay : Bay) : (s.selectIdle bay).inputs = s.inputs := rfl
@[simp] theorem State.selectIdle_emergency (bay : Bay) : (s.selectIdle bay).emergency = s.emergency := rfl
@[simp] theorem State.selectIdle_bays (bay : Bay) : (s.selectIdle bay).bays = s.bays := rfl
@[simp] theorem State.selectIdle_setups (bay : Bay) : (s.selectIdle bay).setups = s.setups := rfl
@[simp] theorem State.selectIdle_sources (bay : Bay) : (s.selectIdle bay).sources = s.sources := rfl
@[simp] theorem State.selectIdle_routes (bay : Bay) : (s.selectIdle bay).routes = s.routes := rfl
@[simp] theorem State.selectIdle_settling (bay : Bay) : (s.selectIdle bay).settling = s.settling := rfl
@[simp] theorem State.selectIdle_frames (bay : Bay) : (s.selectIdle bay).frames = s.frames := rfl
@[simp] theorem State.selectIdle_nets (bay : Bay) : (s.selectIdle bay).nets = s.nets.set bay ((s.nets.get bay).select (s.setups.get bay) s.frames) := rfl
@[simp] theorem State.selectIdle_responses (bay : Bay) : (s.selectIdle bay).responses = s.responses := rfl
@[simp] theorem State.selectIdle_monitor (bay : Bay) : (s.selectIdle bay).monitor = s.monitor := rfl
@[simp] theorem State.selectIdle_meu (bay : Bay) : (s.selectIdle bay).meu = s.meu := rfl
@[simp] theorem State.selectIdle_cal (bay : Bay) : (s.selectIdle bay).cal = s.cal := rfl
@[simp] theorem State.selectIdle_limits (bay : Bay) : (s.selectIdle bay).limits = s.limits := rfl
@[simp] theorem State.selectIdle_vlg (bay : Bay) : (s.selectIdle bay).vlg = s.vlg := rfl
@[simp] theorem State.selectIdle_stats (bay : Bay) : (s.selectIdle bay).stats = s.stats := rfl
@[simp] theorem State.selectIdle_odc (bay : Bay) : (s.selectIdle bay).odc = s.odc := rfl
@[simp] theorem State.selectIdle_access (bay : Bay) : (s.selectIdle bay).access = s.access := rfl
@[simp] theorem State.selectIdle_windows (bay : Bay) : (s.selectIdle bay).windows = s.windows := rfl
@[simp] theorem State.selectIdle_prus (bay : Bay) : (s.selectIdle bay).prus = s.prus := rfl
@[simp] theorem State.selectIdle_attn (bay : Bay) : (s.selectIdle bay).attn = s.attn := rfl
@[simp] theorem State.selectIdle_ports (bay : Bay) : (s.selectIdle bay).ports = s.ports := rfl
@[simp] theorem State.selectIdle_store (bay : Bay) : (s.selectIdle bay).store = s.store := rfl
@[simp] theorem State.selectIdle_choices (bay : Bay) : (s.selectIdle bay).choices = s.choices := rfl
@[simp] theorem State.selectIdle_pending (bay : Bay) : (s.selectIdle bay).pending = s.pending := rfl

/-! ### Updates with a choice in them -/

@[simp] theorem State.raiseBay_running (cause : EdgeCause) (q : Option Master) (bay : Bay) : (s.raiseBay cause q bay).running = s.running := by
  unfold State.raiseBay; dsimp only; split <;> split <;> rfl
@[simp] theorem State.raiseBay_rackTime (cause : EdgeCause) (q : Option Master) (bay : Bay) : (s.raiseBay cause q bay).rackTime = s.rackTime := by
  unfold State.raiseBay; dsimp only; split <;> split <;> rfl
@[simp] theorem State.raiseBay_inputs (cause : EdgeCause) (q : Option Master) (bay : Bay) : (s.raiseBay cause q bay).inputs = s.inputs := by
  unfold State.raiseBay; dsimp only; split <;> split <;> rfl
@[simp] theorem State.raiseBay_emergency (cause : EdgeCause) (q : Option Master) (bay : Bay) : (s.raiseBay cause q bay).emergency = s.emergency := by
  unfold State.raiseBay; dsimp only; split <;> split <;> rfl
@[simp] theorem State.raiseBay_bays (cause : EdgeCause) (q : Option Master) (bay : Bay) : (s.raiseBay cause q bay).bays = s.bays := by
  unfold State.raiseBay; dsimp only; split <;> split <;> rfl
@[simp] theorem State.raiseBay_setups (cause : EdgeCause) (q : Option Master) (bay : Bay) : (s.raiseBay cause q bay).setups = s.setups := by
  unfold State.raiseBay; dsimp only; split <;> split <;> rfl
@[simp] theorem State.raiseBay_sources (cause : EdgeCause) (q : Option Master) (bay : Bay) : (s.raiseBay cause q bay).sources = s.sources := by
  unfold State.raiseBay; dsimp only; split <;> split <;> rfl
@[simp] theorem State.raiseBay_routes (cause : EdgeCause) (q : Option Master) (bay : Bay) : (s.raiseBay cause q bay).routes = s.routes := by
  unfold State.raiseBay; dsimp only; split <;> split <;> rfl
@[simp] theorem State.raiseBay_settling (cause : EdgeCause) (q : Option Master) (bay : Bay) : (s.raiseBay cause q bay).settling = s.settling := by
  unfold State.raiseBay; dsimp only; split <;> split <;> rfl
@[simp] theorem State.raiseBay_frames (cause : EdgeCause) (q : Option Master) (bay : Bay) : (s.raiseBay cause q bay).frames = s.frames := by
  unfold State.raiseBay; dsimp only; split <;> split <;> rfl
@[simp] theorem State.raiseBay_nets (cause : EdgeCause) (q : Option Master) (bay : Bay) : (s.raiseBay cause q bay).nets = s.nets := by
  unfold State.raiseBay; dsimp only; split <;> split <;> rfl
@[simp] theorem State.raiseBay_responses (cause : EdgeCause) (q : Option Master) (bay : Bay) : (s.raiseBay cause q bay).responses = s.responses := by
  unfold State.raiseBay; dsimp only; split <;> split <;> rfl
@[simp] theorem State.raiseBay_monitor (cause : EdgeCause) (q : Option Master) (bay : Bay) : (s.raiseBay cause q bay).monitor = s.monitor := by
  unfold State.raiseBay; dsimp only; split <;> split <;> rfl
@[simp] theorem State.raiseBay_meu (cause : EdgeCause) (q : Option Master) (bay : Bay) : (s.raiseBay cause q bay).meu = s.meu := by
  unfold State.raiseBay; dsimp only; split <;> split <;> rfl
@[simp] theorem State.raiseBay_cal (cause : EdgeCause) (q : Option Master) (bay : Bay) : (s.raiseBay cause q bay).cal = s.cal := by
  unfold State.raiseBay; dsimp only; split <;> split <;> rfl
@[simp] theorem State.raiseBay_limits (cause : EdgeCause) (q : Option Master) (bay : Bay) : (s.raiseBay cause q bay).limits = s.limits := by
  unfold State.raiseBay; dsimp only; split <;> split <;> rfl
@[simp] theorem State.raiseBay_vlg (cause : EdgeCause) (q : Option Master) (bay : Bay) : (s.raiseBay cause q bay).vlg = s.vlg := by
  unfold State.raiseBay; dsimp only; split <;> split <;> rfl
@[simp] theorem State.raiseBay_stats (cause : EdgeCause) (q : Option Master) (bay : Bay) : (s.raiseBay cause q bay).stats = s.stats := by
  unfold State.raiseBay; dsimp only; split <;> split <;> rfl
@[simp] theorem State.raiseBay_odc (cause : EdgeCause) (q : Option Master) (bay : Bay) : (s.raiseBay cause q bay).odc = s.odc := by
  unfold State.raiseBay; dsimp only; split <;> split <;> rfl
@[simp] theorem State.raiseBay_access (cause : EdgeCause) (q : Option Master) (bay : Bay) : (s.raiseBay cause q bay).access = s.access := by
  unfold State.raiseBay; dsimp only; split <;> split <;> rfl
@[simp] theorem State.raiseBay_windows (cause : EdgeCause) (q : Option Master) (bay : Bay) : (s.raiseBay cause q bay).windows = s.windows := by
  unfold State.raiseBay; dsimp only; split <;> split <;> rfl
@[simp] theorem State.raiseBay_prus (cause : EdgeCause) (q : Option Master) (bay : Bay) : (s.raiseBay cause q bay).prus = s.prus := by
  unfold State.raiseBay; dsimp only; split <;> split <;> rfl
@[simp] theorem State.raiseBay_ports (cause : EdgeCause) (q : Option Master) (bay : Bay) : (s.raiseBay cause q bay).ports = s.ports := by
  unfold State.raiseBay; dsimp only; split <;> split <;> rfl
@[simp] theorem State.raiseBay_store (cause : EdgeCause) (q : Option Master) (bay : Bay) : (s.raiseBay cause q bay).store = s.store := by
  unfold State.raiseBay; dsimp only; split <;> split <;> rfl
@[simp] theorem State.raiseBay_choices (cause : EdgeCause) (q : Option Master) (bay : Bay) : (s.raiseBay cause q bay).choices = s.choices := by
  unfold State.raiseBay; dsimp only; split <;> split <;> rfl
@[simp] theorem State.raiseBay_pending (cause : EdgeCause) (q : Option Master) (bay : Bay) : (s.raiseBay cause q bay).pending = s.pending := by
  unfold State.raiseBay; dsimp only; split <;> split <;> rfl

@[simp] theorem State.offer_running (x : MonRec) : (s.offer x).running = s.running := by
  unfold State.offer; split <;> rfl
@[simp] theorem State.offer_rackTime (x : MonRec) : (s.offer x).rackTime = s.rackTime := by
  unfold State.offer; split <;> rfl
@[simp] theorem State.offer_inputs (x : MonRec) : (s.offer x).inputs = s.inputs := by
  unfold State.offer; split <;> rfl
@[simp] theorem State.offer_emergency (x : MonRec) : (s.offer x).emergency = s.emergency := by
  unfold State.offer; split <;> rfl
@[simp] theorem State.offer_bays (x : MonRec) : (s.offer x).bays = s.bays := by
  unfold State.offer; split <;> rfl
@[simp] theorem State.offer_setups (x : MonRec) : (s.offer x).setups = s.setups := by
  unfold State.offer; split <;> rfl
@[simp] theorem State.offer_sources (x : MonRec) : (s.offer x).sources = s.sources := by
  unfold State.offer; split <;> rfl
@[simp] theorem State.offer_routes (x : MonRec) : (s.offer x).routes = s.routes := by
  unfold State.offer; split <;> rfl
@[simp] theorem State.offer_settling (x : MonRec) : (s.offer x).settling = s.settling := by
  unfold State.offer; split <;> rfl
@[simp] theorem State.offer_frames (x : MonRec) : (s.offer x).frames = s.frames := by
  unfold State.offer; split <;> rfl
@[simp] theorem State.offer_nets (x : MonRec) : (s.offer x).nets = s.nets := by
  unfold State.offer; split <;> rfl
@[simp] theorem State.offer_responses (x : MonRec) : (s.offer x).responses = s.responses := by
  unfold State.offer; split <;> rfl
@[simp] theorem State.offer_meu (x : MonRec) : (s.offer x).meu = s.meu := by
  unfold State.offer; split <;> rfl
@[simp] theorem State.offer_cal (x : MonRec) : (s.offer x).cal = s.cal := by
  unfold State.offer; split <;> rfl
@[simp] theorem State.offer_limits (x : MonRec) : (s.offer x).limits = s.limits := by
  unfold State.offer; split <;> rfl
@[simp] theorem State.offer_vlg (x : MonRec) : (s.offer x).vlg = s.vlg := by
  unfold State.offer; split <;> rfl
@[simp] theorem State.offer_stats (x : MonRec) : (s.offer x).stats = s.stats := by
  unfold State.offer; split <;> rfl
@[simp] theorem State.offer_odc (x : MonRec) : (s.offer x).odc = s.odc := by
  unfold State.offer; split <;> rfl
@[simp] theorem State.offer_access (x : MonRec) : (s.offer x).access = s.access := by
  unfold State.offer; split <;> rfl
@[simp] theorem State.offer_windows (x : MonRec) : (s.offer x).windows = s.windows := by
  unfold State.offer; split <;> rfl
@[simp] theorem State.offer_prus (x : MonRec) : (s.offer x).prus = s.prus := by
  unfold State.offer; split <;> rfl
@[simp] theorem State.offer_attn (x : MonRec) : (s.offer x).attn = s.attn := by
  unfold State.offer; split <;> rfl
@[simp] theorem State.offer_ports (x : MonRec) : (s.offer x).ports = s.ports := by
  unfold State.offer; split <;> rfl
@[simp] theorem State.offer_store (x : MonRec) : (s.offer x).store = s.store := by
  unfold State.offer; split <;> rfl
@[simp] theorem State.offer_choices (x : MonRec) : (s.offer x).choices = s.choices := by
  unfold State.offer; split <;> rfl
@[simp] theorem State.offer_pending (x : MonRec) : (s.offer x).pending = s.pending := by
  unfold State.offer; split <;> rfl

@[simp] theorem State.select_running (bay : Bay) : (s.select bay).running = s.running := by
  unfold State.select; dsimp only; split; rfl; split <;> rfl
@[simp] theorem State.select_rackTime (bay : Bay) : (s.select bay).rackTime = s.rackTime := by
  unfold State.select; dsimp only; split; rfl; split <;> rfl
@[simp] theorem State.select_inputs (bay : Bay) : (s.select bay).inputs = s.inputs := by
  unfold State.select; dsimp only; split; rfl; split <;> rfl
@[simp] theorem State.select_emergency (bay : Bay) : (s.select bay).emergency = s.emergency := by
  unfold State.select; dsimp only; split; rfl; split <;> rfl
@[simp] theorem State.select_bays (bay : Bay) : (s.select bay).bays = s.bays := by
  unfold State.select; dsimp only; split; rfl; split <;> rfl
@[simp] theorem State.select_setups (bay : Bay) : (s.select bay).setups = s.setups := by
  unfold State.select; dsimp only; split; rfl; split <;> rfl
@[simp] theorem State.select_sources (bay : Bay) : (s.select bay).sources = s.sources := by
  unfold State.select; dsimp only; split; rfl; split <;> rfl
@[simp] theorem State.select_routes (bay : Bay) : (s.select bay).routes = s.routes := by
  unfold State.select; dsimp only; split; rfl; split <;> rfl
@[simp] theorem State.select_settling (bay : Bay) : (s.select bay).settling = s.settling := by
  unfold State.select; dsimp only; split; rfl; split <;> rfl
@[simp] theorem State.select_frames (bay : Bay) : (s.select bay).frames = s.frames := by
  unfold State.select; dsimp only; split; rfl; split <;> rfl
@[simp] theorem State.select_responses (bay : Bay) : (s.select bay).responses = s.responses := by
  unfold State.select; dsimp only; split; rfl; split <;> rfl
@[simp] theorem State.select_monitor (bay : Bay) : (s.select bay).monitor = s.monitor := by
  unfold State.select; dsimp only; split; rfl; split <;> rfl
@[simp] theorem State.select_meu (bay : Bay) : (s.select bay).meu = s.meu := by
  unfold State.select; dsimp only; split; rfl; split <;> rfl
@[simp] theorem State.select_cal (bay : Bay) : (s.select bay).cal = s.cal := by
  unfold State.select; dsimp only; split; rfl; split <;> rfl
@[simp] theorem State.select_limits (bay : Bay) : (s.select bay).limits = s.limits := by
  unfold State.select; dsimp only; split; rfl; split <;> rfl
@[simp] theorem State.select_vlg (bay : Bay) : (s.select bay).vlg = s.vlg := by
  unfold State.select; dsimp only; split; rfl; split <;> rfl
@[simp] theorem State.select_stats (bay : Bay) : (s.select bay).stats = s.stats := by
  unfold State.select; dsimp only; split; rfl; split <;> rfl
@[simp] theorem State.select_odc (bay : Bay) : (s.select bay).odc = s.odc := by
  unfold State.select; dsimp only; split; rfl; split <;> rfl
@[simp] theorem State.select_access (bay : Bay) : (s.select bay).access = s.access := by
  unfold State.select; dsimp only; split; rfl; split <;> rfl
@[simp] theorem State.select_windows (bay : Bay) : (s.select bay).windows = s.windows := by
  unfold State.select; dsimp only; split; rfl; split <;> rfl
@[simp] theorem State.select_prus (bay : Bay) : (s.select bay).prus = s.prus := by
  unfold State.select; dsimp only; split; rfl; split <;> rfl
@[simp] theorem State.select_attn (bay : Bay) : (s.select bay).attn = s.attn := by
  unfold State.select; dsimp only; split; rfl; split <;> rfl
@[simp] theorem State.select_ports (bay : Bay) : (s.select bay).ports = s.ports := by
  unfold State.select; dsimp only; split; rfl; split <;> rfl
@[simp] theorem State.select_store (bay : Bay) : (s.select bay).store = s.store := by
  unfold State.select; dsimp only; split; rfl; split <;> rfl
@[simp] theorem State.select_pending (bay : Bay) : (s.select bay).pending = s.pending := by
  unfold State.select; dsimp only; split; rfl; split <;> rfl

@[simp] theorem State.pollStore_running : s.pollStore.running = s.running := by
  unfold State.pollStore; split; split <;> rfl; rfl
@[simp] theorem State.pollStore_rackTime : s.pollStore.rackTime = s.rackTime := by
  unfold State.pollStore; split; split <;> rfl; rfl
@[simp] theorem State.pollStore_inputs : s.pollStore.inputs = s.inputs := by
  unfold State.pollStore; split; split <;> rfl; rfl
@[simp] theorem State.pollStore_emergency : s.pollStore.emergency = s.emergency := by
  unfold State.pollStore; split; split <;> rfl; rfl
@[simp] theorem State.pollStore_bays : s.pollStore.bays = s.bays := by
  unfold State.pollStore; split; split <;> rfl; rfl
@[simp] theorem State.pollStore_setups : s.pollStore.setups = s.setups := by
  unfold State.pollStore; split; split <;> rfl; rfl
@[simp] theorem State.pollStore_sources : s.pollStore.sources = s.sources := by
  unfold State.pollStore; split; split <;> rfl; rfl
@[simp] theorem State.pollStore_routes : s.pollStore.routes = s.routes := by
  unfold State.pollStore; split; split <;> rfl; rfl
@[simp] theorem State.pollStore_settling : s.pollStore.settling = s.settling := by
  unfold State.pollStore; split; split <;> rfl; rfl
@[simp] theorem State.pollStore_frames : s.pollStore.frames = s.frames := by
  unfold State.pollStore; split; split <;> rfl; rfl
@[simp] theorem State.pollStore_nets : s.pollStore.nets = s.nets := by
  unfold State.pollStore; split; split <;> rfl; rfl
@[simp] theorem State.pollStore_responses : s.pollStore.responses = s.responses := by
  unfold State.pollStore; split; split <;> rfl; rfl
@[simp] theorem State.pollStore_monitor : s.pollStore.monitor = s.monitor := by
  unfold State.pollStore; split; split <;> rfl; rfl
@[simp] theorem State.pollStore_meu : s.pollStore.meu = s.meu := by
  unfold State.pollStore; split; split <;> rfl; rfl
@[simp] theorem State.pollStore_cal : s.pollStore.cal = s.cal := by
  unfold State.pollStore; split; split <;> rfl; rfl
@[simp] theorem State.pollStore_limits : s.pollStore.limits = s.limits := by
  unfold State.pollStore; split; split <;> rfl; rfl
@[simp] theorem State.pollStore_vlg : s.pollStore.vlg = s.vlg := by
  unfold State.pollStore; split; split <;> rfl; rfl
@[simp] theorem State.pollStore_stats : s.pollStore.stats = s.stats := by
  unfold State.pollStore; split; split <;> rfl; rfl
@[simp] theorem State.pollStore_odc : s.pollStore.odc = s.odc := by
  unfold State.pollStore; split; split <;> rfl; rfl
@[simp] theorem State.pollStore_access : s.pollStore.access = s.access := by
  unfold State.pollStore; split; split <;> rfl; rfl
@[simp] theorem State.pollStore_windows : s.pollStore.windows = s.windows := by
  unfold State.pollStore; split; split <;> rfl; rfl
@[simp] theorem State.pollStore_prus : s.pollStore.prus = s.prus := by
  unfold State.pollStore; split; split <;> rfl; rfl
@[simp] theorem State.pollStore_attn : s.pollStore.attn = s.attn := by
  unfold State.pollStore; split; split <;> rfl; rfl
@[simp] theorem State.pollStore_ports : s.pollStore.ports = s.ports := by
  unfold State.pollStore; split; split <;> rfl; rfl
@[simp] theorem State.pollStore_pending : s.pollStore.pending = s.pending := by
  unfold State.pollStore; split; split <;> rfl; rfl

@[simp] theorem State.moveTo_running (q : Option Master) (bay : Bay) (st : BayState) (p : Option Phase) :
    (s.moveTo q bay st p).running = s.running := by
  unfold State.moveTo; dsimp only; split <;> simp
@[simp] theorem State.moveTo_rackTime (q : Option Master) (bay : Bay) (st : BayState) (p : Option Phase) :
    (s.moveTo q bay st p).rackTime = s.rackTime := by
  unfold State.moveTo; dsimp only; split <;> simp
@[simp] theorem State.moveTo_inputs (q : Option Master) (bay : Bay) (st : BayState) (p : Option Phase) :
    (s.moveTo q bay st p).inputs = s.inputs := by
  unfold State.moveTo; dsimp only; split <;> simp
@[simp] theorem State.moveTo_emergency (q : Option Master) (bay : Bay) (st : BayState) (p : Option Phase) :
    (s.moveTo q bay st p).emergency = s.emergency := by
  unfold State.moveTo; dsimp only; split <;> simp
@[simp] theorem State.moveTo_setups (q : Option Master) (bay : Bay) (st : BayState) (p : Option Phase) :
    (s.moveTo q bay st p).setups = s.setups := by
  unfold State.moveTo; dsimp only; split <;> simp
@[simp] theorem State.moveTo_routes (q : Option Master) (bay : Bay) (st : BayState) (p : Option Phase) :
    (s.moveTo q bay st p).routes = s.routes := by
  unfold State.moveTo; dsimp only; split <;> simp
@[simp] theorem State.moveTo_settling (q : Option Master) (bay : Bay) (st : BayState) (p : Option Phase) :
    (s.moveTo q bay st p).settling = s.settling := by
  unfold State.moveTo; dsimp only; split <;> simp
@[simp] theorem State.moveTo_frames (q : Option Master) (bay : Bay) (st : BayState) (p : Option Phase) :
    (s.moveTo q bay st p).frames = s.frames := by
  unfold State.moveTo; dsimp only; split <;> simp
@[simp] theorem State.moveTo_nets (q : Option Master) (bay : Bay) (st : BayState) (p : Option Phase) :
    (s.moveTo q bay st p).nets = s.nets := by
  unfold State.moveTo; dsimp only; split <;> simp
@[simp] theorem State.moveTo_responses (q : Option Master) (bay : Bay) (st : BayState) (p : Option Phase) :
    (s.moveTo q bay st p).responses = s.responses := by
  unfold State.moveTo; dsimp only; split <;> simp
@[simp] theorem State.moveTo_monitor (q : Option Master) (bay : Bay) (st : BayState) (p : Option Phase) :
    (s.moveTo q bay st p).monitor = s.monitor := by
  unfold State.moveTo; dsimp only; split <;> simp
@[simp] theorem State.moveTo_meu (q : Option Master) (bay : Bay) (st : BayState) (p : Option Phase) :
    (s.moveTo q bay st p).meu = s.meu := by
  unfold State.moveTo; dsimp only; split <;> simp
@[simp] theorem State.moveTo_cal (q : Option Master) (bay : Bay) (st : BayState) (p : Option Phase) :
    (s.moveTo q bay st p).cal = s.cal := by
  unfold State.moveTo; dsimp only; split <;> simp
@[simp] theorem State.moveTo_limits (q : Option Master) (bay : Bay) (st : BayState) (p : Option Phase) :
    (s.moveTo q bay st p).limits = s.limits := by
  unfold State.moveTo; dsimp only; split <;> simp
@[simp] theorem State.moveTo_vlg (q : Option Master) (bay : Bay) (st : BayState) (p : Option Phase) :
    (s.moveTo q bay st p).vlg = s.vlg := by
  unfold State.moveTo; dsimp only; split <;> simp
@[simp] theorem State.moveTo_stats (q : Option Master) (bay : Bay) (st : BayState) (p : Option Phase) :
    (s.moveTo q bay st p).stats = s.stats := by
  unfold State.moveTo; dsimp only; split <;> simp
@[simp] theorem State.moveTo_odc (q : Option Master) (bay : Bay) (st : BayState) (p : Option Phase) :
    (s.moveTo q bay st p).odc = s.odc := by
  unfold State.moveTo; dsimp only; split <;> simp
@[simp] theorem State.moveTo_access (q : Option Master) (bay : Bay) (st : BayState) (p : Option Phase) :
    (s.moveTo q bay st p).access = s.access := by
  unfold State.moveTo; dsimp only; split <;> simp
@[simp] theorem State.moveTo_windows (q : Option Master) (bay : Bay) (st : BayState) (p : Option Phase) :
    (s.moveTo q bay st p).windows = s.windows := by
  unfold State.moveTo; dsimp only; split <;> simp
@[simp] theorem State.moveTo_prus (q : Option Master) (bay : Bay) (st : BayState) (p : Option Phase) :
    (s.moveTo q bay st p).prus = s.prus := by
  unfold State.moveTo; dsimp only; split <;> simp
@[simp] theorem State.moveTo_ports (q : Option Master) (bay : Bay) (st : BayState) (p : Option Phase) :
    (s.moveTo q bay st p).ports = s.ports := by
  unfold State.moveTo; dsimp only; split <;> simp
@[simp] theorem State.moveTo_store (q : Option Master) (bay : Bay) (st : BayState) (p : Option Phase) :
    (s.moveTo q bay st p).store = s.store := by
  unfold State.moveTo; dsimp only; split <;> simp
@[simp] theorem State.moveTo_choices (q : Option Master) (bay : Bay) (st : BayState) (p : Option Phase) :
    (s.moveTo q bay st p).choices = s.choices := by
  unfold State.moveTo; dsimp only; split <;> simp
@[simp] theorem State.moveTo_pending (q : Option Master) (bay : Bay) (st : BayState) (p : Option Phase) :
    (s.moveTo q bay st p).pending = s.pending := by
  unfold State.moveTo; dsimp only; split <;> simp
@[simp] theorem State.moveTo_bays (q : Option Master) (bay : Bay) (st : BayState) (p : Option Phase) :
    (s.moveTo q bay st p).bays = s.bays.set bay ((s.bays.get bay).moveTo st p) := by
  unfold State.moveTo; dsimp only; split <;> simp

/-! ### A save in progress -/

@[simp] theorem Save.begin_buffer (image : List Byte) (now : Time) : (Save.begin image now).buffer = image := rfl
@[simp] theorem Save.begin_written (image : List Byte) (now : Time) : (Save.begin image now).written = 0 := rfl
@[simp] theorem Save.begin_sentAt (image : List Byte) (now : Time) : (Save.begin image now).sentAt = now := rfl
@[simp] theorem Save.poll_buffer (x : Save) (k : Nat) (now : Time) : (x.poll k now).buffer = x.buffer := by
  unfold Save.poll; split <;> rfl
@[simp] theorem Save.verified_readBack (x : Save) (l : List Byte) :
    x.verified (.readBack l) = decide (l = x.buffer) := rfl
@[simp] theorem Save.verified_noAck (x : Save) : x.verified .noAck = false := rfl
@[simp] theorem Save.verified_timeLimit (x : Save) : x.verified .timeLimit = false := rfl

@[simp] theorem Save.endsBy_readBack (x : Save) (l : List Byte) (now : Time) :
    x.endsBy (.readBack l) now = decide (saveLength ≤ x.written) := rfl
@[simp] theorem Save.endsBy_noAck (x : Save) (now : Time) : x.endsBy .noAck now = true := rfl
@[simp] theorem Save.endsBy_timeLimit (x : Save) (now : Time) : x.endsBy .timeLimit now = x.overdue now := rfl

/-- A millisecond of a save moves its count of acknowledged writes on, never past the last (R211). -/
theorem Save.poll_written (x : Save) (k : Nat) (now : Time) (h : x.written ≤ saveLength) :
    x.written ≤ (x.poll k now).written ∧ (x.poll k now).written ≤ saveLength := by
  unfold Save.poll; split
  · exact ⟨Nat.le_refl _, h⟩
  · dsimp only; omega

end Sys2Proof.Machine
end

