-- ==== Sys2Proof/Laws/Frames.lean ====
section
/-! SUPPORT. Bay events change the blocks they reach and nothing else: `BayFrame` for every operation a bay movement, a
teardown or a prompt's end is made of, and `BayEventFrame` for those that take no free choice. -/

namespace Sys2Proof.Machine

/-- The frame of a bay event but for the model's own counter, which a free choice moves on. -/
def BayFrame (s t : State) : Prop := BayEventFrame { s with choices := t.choices } t

/-- The frame as equations, one for each field that is kept. -/
theorem bayFrame_iff {s t : State} : BayFrame s t ↔
    t.running = s.running ∧ t.rackTime = s.rackTime ∧ t.inputs = s.inputs ∧ t.emergency = s.emergency ∧
    t.setups = s.setups ∧ t.settling = s.settling ∧ t.frames = s.frames ∧ t.monitor = s.monitor ∧ t.cal = s.cal ∧
    t.limits = s.limits ∧ t.odc = s.odc ∧ t.access = s.access ∧ t.ports = s.ports ∧ t.store = s.store ∧
    t.pending = s.pending := by
  cases s; cases t; simp [BayFrame, BayEventFrame]

theorem BayFrame.refl (s : State) : BayFrame s s := bayFrame_iff.2 (by simp)

theorem BayFrame.trans {s t u : State} (h : BayFrame s t) (h' : BayFrame t u) : BayFrame s u := by
  rw [bayFrame_iff] at *; simp_all

/-- A bay event that takes no free choice has the whole frame. -/
theorem BayFrame.event {s t : State} (h : BayFrame s t) (hc : t.choices = s.choices) : BayEventFrame s t := by
  unfold BayFrame at h; rw [hc] at h; exact h

variable (s : State)

theorem frame_raise (m : Master) (e : Edge) : BayFrame s (s.raise m e) := bayFrame_iff.2 (by simp)
theorem frame_raiseBay (c : EdgeCause) (q : Option Master) (bay : Bay) : BayFrame s (s.raiseBay c q bay) :=
  bayFrame_iff.2 (by simp)
theorem frame_setBay (bay : Bay) (x : BayCtl) : BayFrame s (s.setBay bay x) := bayFrame_iff.2 (by simp)
theorem frame_setCtx (bay : Bay) (x : BayCtx) : BayFrame s (s.setCtx bay x) := bayFrame_iff.2 (by simp)
theorem frame_setNet (bay : Bay) (x : Net) : BayFrame s (s.setNet bay x) := bayFrame_iff.2 (by simp)
theorem frame_setPru (bay : Bay) (x : Pru) : BayFrame s (s.setPru bay x) := bayFrame_iff.2 (by simp)
theorem frame_setWindow (bay : Bay) (x : Window) : BayFrame s (s.setWindow bay x) :=
  bayFrame_iff.2 (by simp)
theorem frame_setMeu (x : Meu) : BayFrame s (s.setMeu x) := bayFrame_iff.2 (by simp)
theorem frame_setVlg (x : Vlg) : BayFrame s (s.setVlg x) := bayFrame_iff.2 (by simp)
theorem frame_setSource (i : Fin 8) (x : Source) : BayFrame s (s.setSource i x) := bayFrame_iff.2 (by simp)
theorem frame_repark : BayFrame s s.repark := bayFrame_iff.2 (by simp)
theorem frame_openRoutes (p : Route → Bool) : BayFrame s (s.openRoutes p) := bayFrame_iff.2 (by simp)
theorem frame_count (bay : Bay) (c : Stat) : BayFrame s (s.count bay c) := bayFrame_iff.2 (by simp)
theorem frame_mapResp (f : Resp → Option Resp) : BayFrame s (s.mapResp f) := bayFrame_iff.2 (by simp)
theorem frame_selectIdle (bay : Bay) : BayFrame s (s.selectIdle bay) := bayFrame_iff.2 (by simp)
theorem frame_select (bay : Bay) : BayFrame s (s.select bay) := bayFrame_iff.2 (by simp)
theorem frame_moveTo (q : Option Master) (bay : Bay) (st : BayState) (p : Option Phase) :
    BayFrame s (s.moveTo q bay st p) := bayFrame_iff.2 (by simp)
theorem frame_release (h : Holder) : BayFrame s (s.release h) := frame_setVlg s _
theorem frame_openBayRoutes (bay : Bay) : BayFrame s (s.openBayRoutes bay) := frame_openRoutes s _
theorem frame_flushLearned (bay : Bay) : BayFrame s (s.flushLearned bay) := frame_mapResp s _
theorem frame_resetPinned (bay : Bay) : BayFrame s (s.resetPinned bay) := frame_mapResp s _
theorem frame_setLamp (bay : Bay) (l : Lamp) : BayFrame s (s.setLamp bay l) := frame_setBay s _ _
theorem frame_startTimer (bay : Bay) (p : TimerPurpose) (ms : Nat) : BayFrame s (s.startTimer bay p ms) :=
  frame_setBay s _ _
theorem frame_scheduleRun (bay : Bay) : BayFrame s (s.scheduleRun bay) := frame_setNet s _ _
theorem frame_portOn (bay : Bay) : BayFrame s (s.portOn bay) := (frame_setNet s _ _).trans (frame_select _ _)
theorem frame_alert (bay : Bay) : BayFrame s (s.alert bay) := frame_setWindow s _ _

theorem frame_writeStep (bay : Bay) (h : Option Holder) (d : StepDraft) : BayFrame s (s.writeStep bay h d) :=
  bayFrame_iff.2 (by simp [State.writeStep])

theorem frame_endUnit (bay : Bay) (v : UnitVerdict) (c : Option UnitCause) : BayFrame s (s.endUnit bay v c) :=
  bayFrame_iff.2 (by simp [State.endUnit])

theorem frame_freeSource (i : Fin 8) : BayFrame s (s.freeSource i) := by
  unfold State.freeSource
  split
  · exact frame_setSource s _ _
  · split
    · exact .refl s
    · exact (frame_openRoutes s _).trans (frame_setSource _ _ _)

theorem frame_endClaims (bay : Bay) : BayFrame s (s.endClaims bay) := by
  unfold State.endClaims
  generalize allSources = l
  induction l generalizing s with
  | nil => exact .refl s
  | cons i l ih =>
    simp only [List.foldl_cons]
    split
    · exact (frame_freeSource s i).trans (ih _)
    · exact ih s

theorem frame_vacate (bay : Bay) : BayFrame s (s.vacate bay) :=
  (frame_setBay s _ _).trans (frame_endClaims _ _)

theorem frame_enterOpen (q : Option Master) (bay : Bay) : BayFrame s (s.enterOpen q bay) := by
  unfold State.enterOpen
  split
  · exact frame_moveTo s _ _ _ _
  · exact (frame_moveTo s _ _ _ _).trans (frame_vacate _ _)

theorem frame_portOff (bay : Bay) : BayFrame s (s.portOff bay) := by
  unfold State.portOff
  dsimp only
  split
  · split
    · exact frame_setNet s _ _
    · exact (frame_setNet s _ _).trans (frame_count _ _ _)
  · exact frame_setNet s _ _

/-! ### Prompts -/

theorem frame_answerPrompt (bay : Bay) (p : Prompt) (x : Reply) (ms : Nat) (i : Option Nat) :
    BayFrame s (s.answerPrompt bay p x ms i) := (frame_setPru s _ _).trans (frame_raise _ _ _)

theorem frame_endPromptWindow (bay : Bay) : BayFrame s (s.endPromptWindow bay) := frame_setWindow s _ _

theorem frame_activate (bay : Bay) (p : Prompt) (l : List Prompt) : BayFrame s (s.activate bay p l) :=
  (frame_setPru s _ _).trans (frame_setWindow _ _ _)

theorem frame_promote (bay : Bay) (l : List Prompt) : BayFrame s (promote bay l s) := by
  induction l generalizing s with
  | nil => exact frame_setPru s _ _
  | cons p l ih =>
    unfold promote
    split
    · exact frame_activate s _ _ _
    · split
      · exact (frame_answerPrompt s _ _ _ _ _).trans (ih _)
      · split
        · exact (frame_setVlg s _).trans (frame_activate _ _ _ _)
        · exact frame_setPru s _ _

theorem frame_askAgain (bay : Bay) : BayFrame s (askAgain bay s) := by
  unfold askAgain
  split
  · exact frame_promote s _ _
  · exact .refl s

theorem frame_handOver : BayFrame s (handOver s) := by
  unfold handOver
  dsimp only
  split
  · have h : BayFrame s { s with choices := s.choices + 1 } := bayFrame_iff.2 (by simp)
    split
    · exact (h.trans (frame_askAgain _ _)).trans (frame_askAgain _ _)
    · exact (h.trans (frame_askAgain _ _)).trans (frame_askAgain _ _)
  · exact (frame_askAgain s _).trans (frame_askAgain _ _)

theorem frame_answerActive (bay : Bay) (p : Prompt) (x : Reply) (ms : Nat) :
    BayFrame s (answerActive bay p x ms s) := by
  unfold answerActive
  dsimp only
  refine .trans ?_ (frame_promote _ _ _)
  refine .trans (.trans ?_ (frame_answerPrompt _ _ _ _ _ _)) (frame_endPromptWindow _ _)
  split
  · exact frame_writeStep s _ _ _
  · exact .refl s

theorem frame_cancelActive (bay : Bay) (p : Prompt) (t : Time) : BayFrame s (cancelActive bay p t s) := by
  unfold cancelActive
  refine .trans (.trans ?_ (frame_answerPrompt _ _ _ _ _ _)) (frame_endPromptWindow _ _)
  split
  · exact frame_release s _
  · exact .refl s

theorem frame_promptTeardown (bay : Bay) : BayFrame s (promptTeardown bay s) := by
  unfold promptTeardown
  split
  · exact frame_setPru s _ _
  · exact (frame_answerPrompt s _ _ _ _ _).trans (frame_setPru _ _ _)
  · have h := (frame_cancelActive s bay ‹Prompt› ‹Time›).trans (frame_setPru _ bay
      { (cancelActive bay ‹Prompt› ‹Time› s).prus.get bay with front := .empty, waiting := [] })
    dsimp only
    split
    · exact h.trans (frame_handOver _)
    · exact h

/-! ### The Measurement Unit -/

theorem frame_setClaim (m : Master) (c : Claim) : BayFrame s (s.setClaim m c) := frame_setMeu s _

theorem frame_arbitrate (own : Option Master) : BayFrame s (s.arbitrate own) := by
  unfold State.arbitrate
  split
  · exact .refl s
  · split
    · exact .refl s
    · dsimp only
      split
      · exact frame_setMeu s _
      · exact (frame_setMeu s _).trans (frame_raise _ _ _)

theorem frame_withdraw (m : Master) : BayFrame s (s.withdraw m) :=
  (frame_setClaim s _ _).trans (frame_raise _ _ _)

theorem frame_revoke (own : Option Master) (m : Master) (p : Priority) (t : Time) (l : Nat) :
    BayFrame s (s.revoke own m p t l) := by
  unfold State.revoke
  dsimp only
  split
  · exact (frame_setMeu s _).trans (frame_setClaim _ _ _)
  · exact ((frame_setMeu s _).trans (frame_withdraw _ _)).trans (frame_arbitrate _ _)

theorem frame_testRevoke (own : Option Master) : BayFrame s (s.testRevoke own) := by
  unfold State.testRevoke
  split
  · unfold State.testRevokeOf
    split
    · split
      · exact frame_revoke s _ _ _ _ _
      · exact .refl s
    · exact .refl s
  · exact .refl s

theorem frame_endGrant (quiet : Bool) (m : Master) : BayFrame s (s.endGrant quiet m) := by
  unfold State.endGrant
  split
  · refine .trans ?_ (frame_arbitrate _ _)
    split
    · exact frame_setClaim s _ _
    · exact frame_withdraw s _
  · exact (frame_setClaim s _ _).trans (frame_arbitrate _ _)
  · exact (frame_setClaim s _ _).trans (frame_arbitrate _ _)
  · exact .refl s

theorem frame_fillSlot (x : Measurement) (st : ResultStatus) : BayFrame s (s.fillSlot x st) := frame_setMeu s _

theorem frame_dropSense : BayFrame s s.dropSense := frame_setMeu s _

theorem frame_completeMeasurement (x : Measurement) : BayFrame s (completeMeasurement x s) := by
  unfold completeMeasurement
  dsimp only
  refine .trans (.trans ?_ (frame_setMeu _ _)) (frame_endGrant _ _ _)
  have h : ∀ r : State, BayFrame s r → ∀ st e,
      BayFrame s (((r.fillSlot x st).dropSense.raise x.requester e).count x.bay .measurements) := fun r hr st e =>
    (((hr.trans (frame_fillSlot _ _ _)).trans (frame_dropSense _)).trans (frame_raise _ _ _)).trans (frame_count _ _ _)
  split
  · refine .trans (h _ ?_ _ _) (frame_count _ _ _)
    split
    · exact frame_writeStep s _ _ _
    · exact .refl s
  · refine h _ ?_ _ _
    split
    · exact frame_writeStep s _ _ _
    · exact .refl s

theorem frame_abortMeasurement (quiet : Bool) (x : Measurement) : BayFrame s (abortMeasurement quiet x s) := by
  unfold abortMeasurement
  dsimp only
  have h : ∀ r : State, BayFrame s r → BayFrame s
      (((((r.fillSlot x (.aborted x.phase.name)).dropSense).raise x.requester (completeEdge x)).setMeu
        { (((r.fillSlot x (.aborted x.phase.name)).dropSense).raise x.requester (completeEdge x)).meu with
          inFlight := none }).endGrant quiet x.requester) := fun r hr =>
    ((((hr.trans (frame_fillSlot _ _ _)).trans (frame_dropSense _)).trans (frame_raise _ _ _)).trans
      (frame_setMeu _ _)).trans (frame_endGrant _ _ _)
  have h1 : BayFrame s (match x.limit with
      | some _ => s.release (.measure x.bay)
      | none => s) := by
    split
    · exact frame_release s _
    · exact .refl s
  split
  · exact (h _ h1).trans (frame_handOver _)
  · exact h _ h1

theorem frame_abortOwn (bay : Bay) : BayFrame s (abortOwn bay s) := by
  unfold abortOwn
  split
  · split
    · exact frame_abortMeasurement s _ _
    · exact .refl s
  · exact .refl s

theorem frame_abortStation (bay : Bay) : BayFrame s (abortStation bay s) := by
  unfold abortStation
  split
  · split
    · exact frame_abortMeasurement s _ _
    · exact .refl s
  · exact .refl s

theorem frame_dropClaim (bay : Bay) : BayFrame s (dropClaim bay s) := by
  unfold dropClaim
  dsimp only
  split
  · exact (frame_setMeu s _).trans (frame_arbitrate _ _)
  · exact frame_setMeu s _

theorem frame_meuTeardown (bay : Bay) : BayFrame s (meuTeardown bay s) :=
  ((frame_abortOwn s bay).trans (frame_abortStation _ bay)).trans (frame_dropClaim _ bay)

/-! ### Bays -/

theorem frame_tearDown (bay : Bay) (live stop : Bool) : BayFrame s (s.tearDown bay live stop) := by
  unfold State.tearDown
  dsimp only
  have h := ((frame_openBayRoutes s bay).trans (frame_flushLearned _ bay)).trans (frame_promptTeardown _ bay)
  split
  · exact (h.trans (frame_portOff _ _)).trans (frame_meuTeardown _ _)
  · split
    · exact h.trans (frame_abortStation _ _)
    · exact h

theorem frame_enterSafe (q : Option Master) (bay : Bay) (c : SafeCause) : BayFrame s (enterSafe q bay c s) := by
  unfold enterSafe
  dsimp only
  refine .trans (.trans (.trans (.trans ?_ (frame_raiseBay _ _ _ _)) (frame_count _ _ _)) (frame_tearDown _ _ _ _))
    (frame_alert _ _)
  have h := (frame_moveTo s q bay .safe none).trans (frame_setBay _ bay
    { (s.moveTo q bay .safe none).bays.get bay with
      ctx := { ((s.moveTo q bay .safe none).bays.get bay).ctx with safeCause := some c }, lamp := .safe })
  split
  · exact h.trans (frame_endUnit _ _ _ _)
  · exact h

theorem frame_awaitFeedback (q : Option Master) (bay : Bay) (p : TimerPurpose) (ms : Nat) :
    BayFrame s (awaitFeedback q bay p ms s) := by
  unfold awaitFeedback
  split
  · exact frame_enterSafe s _ _ _
  · exact frame_startTimer s _ _ _

theorem frame_enterClamping (q : Option Master) (bay : Bay) : BayFrame s (enterClamping q bay s) := by
  unfold enterClamping
  dsimp only
  refine (frame_moveTo s q bay .clamping none).trans ?_
  split
  · exact frame_moveTo _ _ _ _ _
  · exact frame_awaitFeedback _ _ _ _ _

theorem frame_enterContacting (q : Option Master) (bay : Bay) : BayFrame s (enterContacting q bay s) := by
  unfold enterContacting
  dsimp only
  refine (frame_moveTo s q bay .contacting none).trans ?_
  split
  · exact frame_moveTo _ _ _ _ _
  · exact frame_awaitFeedback _ _ _ _ _

theorem frame_enterPowered (q : Option Master) (bay : Bay) : BayFrame s (enterPowered q bay s) :=
  (frame_moveTo s q bay .powered none).trans (frame_portOn _ _)

theorem frame_enterPowering (q : Option Master) (bay : Bay) : BayFrame s (enterPowering q bay s) := by
  unfold enterPowering
  dsimp only
  refine (frame_moveTo s q bay .powering none).trans ?_
  split
  · exact frame_enterPowered _ _ _
  · exact frame_startTimer _ _ _ _

theorem frame_runUnclamp (q : Option Master) (bay : Bay) : BayFrame s (runUnclamp q bay s) := by
  unfold runUnclamp
  split
  · exact frame_awaitFeedback s _ _ _ _
  · exact frame_enterOpen s _ _

theorem frame_enterUnclamp (q : Option Master) (bay : Bay) : BayFrame s (enterUnclamp q bay s) :=
  (frame_moveTo s q bay .closing (some .unclamp)).trans (frame_runUnclamp _ _ _)

theorem frame_runRetract (q : Option Master) (bay : Bay) : BayFrame s (runRetract q bay s) := by
  unfold runRetract
  split
  · exact frame_awaitFeedback s _ _ _ _
  · exact frame_enterUnclamp s _ _

theorem frame_enterRetract (q : Option Master) (bay : Bay) : BayFrame s (enterRetract q bay s) :=
  (frame_moveTo s q bay .closing (some .retract)).trans (frame_runRetract _ _ _)

theorem frame_runPowerDown (q : Option Master) (bay : Bay) : BayFrame s (runPowerDown q bay s) := by
  unfold runPowerDown
  split
  · exact frame_enterRetract s _ _
  · exact frame_startTimer s _ _ _

theorem frame_enterClosing (q : Option Master) (bay : Bay) (p : Phase) : BayFrame s (enterClosing q bay p s) := by
  unfold enterClosing
  dsimp only
  refine ((frame_moveTo s q bay .closing (some p)).trans (frame_tearDown _ bay (s.bayState bay).live false)).trans ?_
  split
  · exact frame_runPowerDown _ _ _
  · exact frame_runRetract _ _ _
  · exact frame_runUnclamp _ _ _

theorem frame_abortBay (q : Option Master) (bay : Bay) (p : Phase) : BayFrame s (abortBay q bay p s) := by
  unfold abortBay
  split
  · exact ((frame_endUnit s _ _ _).trans (frame_setLamp _ _ _)).trans (frame_enterClosing _ _ _ _)
  · exact frame_enterClosing s _ _ _

theorem frame_startUnit (m : Master) (bay : Bay) (o : StartOps) : BayFrame s (startUnit m bay o s) := by
  unfold startUnit
  exact ((((frame_setBay s _ _).trans (frame_setVlg _ _)).trans (frame_moveTo _ _ _ _ _)).trans
    (frame_resetPinned _ _)).trans (frame_scheduleRun _ _)

theorem frame_releaseBay (m : Master) (bay : Bay) : BayFrame s (releaseBay m bay s) := by
  unfold releaseBay
  dsimp only
  split
  · exact ((frame_setBay s bay _).trans (frame_setWindow _ bay _)).trans (frame_enterClamping _ _ _)
  · exact ((frame_setBay s bay _).trans (frame_setWindow _ bay _)).trans (frame_enterOpen _ _ _)

theorem frame_resetBay (m : Master) (bay : Bay) : BayFrame s (resetBay m bay s) := by
  unfold resetBay
  dsimp only
  refine .trans (.trans (.trans (.trans (.trans ?_ (frame_setBay _ _ _)) (frame_enterOpen _ _ _))
    (frame_tearDown _ _ _ _)) (frame_endClaims _ _)) (frame_setWindow _ _ _)
  split
  · exact frame_endUnit s _ _ _
  · exact .refl s

theorem frame_expiryOf (bay : Bay) (p : TimerPurpose) : BayFrame s (expiryOf bay p s) := by
  cases p
  · exact frame_enterSafe s _ _ _
  · exact frame_enterSafe s _ _ _
  · exact frame_enterPowered s _ _
  · exact frame_enterRetract s _ _
  · exact frame_enterSafe s _ _ _
  · exact frame_enterSafe s _ _ _

/-! ### Events that take no free choice

Only a hand-over to two PENDING fronts and a selection take one. In a teardown the bay's own front is EMPTY by then. -/

/-- The prompts and the counter of free choices are kept. -/
def Still (s t : State) : Prop := t.prus = s.prus ∧ t.choices = s.choices

/-- No free choice is taken, and the bay's front place is EMPTY. -/
def Emptied (bay : Bay) (s t : State) : Prop := t.choices = s.choices ∧ (t.prus.get bay).front = .empty

theorem Still.refl (s : State) : Still s s := ⟨rfl, rfl⟩

theorem Still.trans {s t u : State} (h : Still s t) (h' : Still t u) : Still s u := ⟨h'.1.trans h.1, h'.2.trans h.2⟩

theorem Emptied.still {bay : Bay} {s t u : State} (h : Emptied bay s t) (h' : Still t u) : Emptied bay s u :=
  ⟨h'.2.trans h.1, by rw [h'.1]; exact h.2⟩

theorem Emptied.trans {bay : Bay} {s t u : State} (h : Emptied bay s t) (h' : Emptied bay t u) : Emptied bay s u :=
  ⟨h'.1.trans h.1, h'.2⟩

theorem promote_choices (bay : Bay) (l : List Prompt) : (promote bay l s).choices = s.choices := by
  induction l generalizing s with
  | nil => rfl
  | cons p l ih =>
    unfold promote
    split
    · rfl
    · split
      · exact ih _
      · split <;> rfl

theorem promote_prus_ne {bay x : Bay} (l : List Prompt) (h : x ≠ bay) :
    (promote bay l s).prus.get x = s.prus.get x := by
  induction l generalizing s with
  | nil => simp [promote, Per.get_set_ne _ _ h]
  | cons p l ih =>
    unfold promote
    split
    · simp [State.activate, Per.get_set_ne _ _ h]
    · split
      · rw [ih]; simp [State.answerPrompt, Per.get_set_ne _ _ h]
      · split <;> simp [State.activate, Per.get_set_ne _ _ h]

theorem askAgain_choices (bay : Bay) : (askAgain bay s).choices = s.choices := by
  unfold askAgain; split
  · exact promote_choices s _ _
  · rfl

/-- A Prompt Unit with an EMPTY front is left as it is by the other one and by itself. -/
theorem askAgain_empty {bay : Bay} (x : Bay) (h : (s.prus.get bay).front = .empty) :
    (askAgain x s).prus.get bay = s.prus.get bay := by
  unfold askAgain; split
  · rename_i hp
    exact promote_prus_ne s _ (by rintro rfl; rw [h] at hp; cases hp)
  · rfl

theorem emptied_handOver {bay : Bay} (h : (s.prus.get bay).front = .empty) : Emptied bay s (handOver s) := by
  have hn : (s.frontPending .a && s.frontPending .b) = false := by
    cases bay <;> simp [State.frontPending, h]
  unfold handOver
  rw [hn]
  refine ⟨by simp [askAgain_choices], ?_⟩
  have h1 := askAgain_empty s (bay := bay) .a h
  simp only [Bool.false_eq_true, if_false]
  rw [askAgain_empty _ (bay := bay) .b (by rw [h1]; exact h), h1]
  exact h

theorem cancelActive_choices (bay : Bay) (p : Prompt) (t : Time) : (cancelActive bay p t s).choices = s.choices := by
  unfold cancelActive; dsimp only; split <;> rfl

theorem emptied_promptTeardown (bay : Bay) : Emptied bay s (promptTeardown bay s) := by
  unfold promptTeardown
  split
  · rename_i h; exact ⟨rfl, by simp [h]⟩
  · exact ⟨rfl, by simp⟩
  · rename_i p since _ _
    have h : ∀ x : Pru, x.front = .empty → Emptied bay s ((cancelActive bay p since s).setPru bay x) :=
      fun x hx => ⟨cancelActive_choices s bay p since, by simp [hx]⟩
    dsimp only
    split
    · exact (h _ rfl).trans (emptied_handOver _ (h _ rfl).2)
    · exact h _ rfl

theorem still_arbitrate (own : Option Master) : Still s (s.arbitrate own) := by
  unfold State.arbitrate
  split
  · exact .refl s
  · split
    · exact .refl s
    · dsimp only; split <;> exact ⟨rfl, rfl⟩

theorem still_endGrant (quiet : Bool) (m : Master) : Still s (s.endGrant quiet m) := by
  unfold State.endGrant
  split
  · refine .trans ?_ (still_arbitrate _ _)
    split <;> exact ⟨rfl, rfl⟩
  · exact .trans ⟨rfl, rfl⟩ (still_arbitrate _ _)
  · exact .trans ⟨rfl, rfl⟩ (still_arbitrate _ _)
  · exact .refl s

theorem emptied_abortMeasurement {bay : Bay} (quiet : Bool) (x : Measurement) (h : (s.prus.get bay).front = .empty) :
    Emptied bay s (abortMeasurement quiet x s) := by
  have hs : ∀ r : State, Still s r → Still s
      (((((r.fillSlot x (.aborted x.phase.name)).dropSense).raise x.requester (completeEdge x)).setMeu
        { (((r.fillSlot x (.aborted x.phase.name)).dropSense).raise x.requester (completeEdge x)).meu with
          inFlight := none }).endGrant quiet x.requester) := fun r hr =>
    (hr.trans ⟨by simp [State.fillSlot, State.dropSense], by simp [State.fillSlot, State.dropSense]⟩).trans
      (still_endGrant _ _ _)
  have h1 : Still s (match x.limit with
      | some _ => s.release (.measure x.bay)
      | none => s) := by
    split
    · exact ⟨rfl, rfl⟩
    · exact .refl s
  have h2 : Emptied bay s s := ⟨rfl, h⟩
  unfold abortMeasurement
  dsimp only
  split
  · exact (h2.still (hs _ h1)).trans (emptied_handOver _ (h2.still (hs _ h1)).2)
  · exact h2.still (hs _ h1)

theorem emptied_abortOwn {bay : Bay} (x : Bay) (h : (s.prus.get bay).front = .empty) :
    Emptied bay s (abortOwn x s) := by
  unfold abortOwn
  split
  · split
    · exact emptied_abortMeasurement s _ _ h
    · exact ⟨rfl, h⟩
  · exact ⟨rfl, h⟩

theorem emptied_abortStation {bay : Bay} (x : Bay) (h : (s.prus.get bay).front = .empty) :
    Emptied bay s (abortStation x s) := by
  unfold abortStation
  split
  · split
    · exact emptied_abortMeasurement s _ _ h
    · exact ⟨rfl, h⟩
  · exact ⟨rfl, h⟩

theorem still_dropClaim (bay : Bay) : Still s (dropClaim bay s) := by
  unfold dropClaim
  dsimp only
  split
  · exact .trans ⟨rfl, rfl⟩ (still_arbitrate _ _)
  · exact ⟨rfl, rfl⟩

theorem still_portOff (bay : Bay) : Still s (s.portOff bay) := by
  unfold State.portOff
  dsimp only
  split
  · split <;> exact ⟨rfl, rfl⟩
  · exact ⟨rfl, rfl⟩

/-- A teardown takes no free choice and leaves the bay's front place EMPTY. -/
theorem emptied_tearDown (bay : Bay) (live stop : Bool) : Emptied bay s (s.tearDown bay live stop) := by
  have h := emptied_promptTeardown ((s.openBayRoutes bay).flushLearned bay) bay
  unfold State.tearDown
  dsimp only
  split
  · have h1 := h.still (still_portOff _ bay)
    have h2 := h1.trans (emptied_abortOwn _ bay h1.2)
    exact ((h2.trans (emptied_abortStation _ bay h2.2)).still (still_dropClaim _ bay))
  · split
    · exact h.trans (emptied_abortStation _ bay h.2)
    · exact h

/-! The operations of a bay movement. -/

theorem endUnit_choices (bay : Bay) (v : UnitVerdict) (c : Option UnitCause) :
    (s.endUnit bay v c).choices = s.choices := by simp [State.endUnit]

theorem enterSafe_choices (q : Option Master) (bay : Bay) (c : SafeCause) :
    (enterSafe q bay c s).choices = s.choices := by
  unfold enterSafe
  dsimp only
  have h : ∀ r : State, ((r.tearDown bay (s.bayState bay).live true).alert bay).choices = r.choices := fun r =>
    (emptied_tearDown r bay _ _).1
  rw [h]
  split <;> simp [endUnit_choices]

theorem awaitFeedback_choices (q : Option Master) (bay : Bay) (p : TimerPurpose) (ms : Nat) :
    (awaitFeedback q bay p ms s).choices = s.choices := by
  unfold awaitFeedback; split
  · exact enterSafe_choices s _ _ _
  · rfl

theorem endClaims_choices (bay : Bay) : (s.endClaims bay).choices = s.choices := by
  unfold State.endClaims
  generalize allSources = l
  induction l generalizing s with
  | nil => rfl
  | cons i l ih =>
    simp only [List.foldl_cons]
    rw [ih]
    split
    · unfold State.freeSource; split
      · rfl
      · split <;> rfl
    · rfl

theorem enterOpen_choices (q : Option Master) (bay : Bay) : (s.enterOpen q bay).choices = s.choices := by
  unfold State.enterOpen; split
  · simp
  · unfold State.vacate; dsimp only; rw [endClaims_choices]; simp

theorem runUnclamp_choices (q : Option Master) (bay : Bay) : (runUnclamp q bay s).choices = s.choices := by
  unfold runUnclamp; split
  · exact awaitFeedback_choices s _ _ _ _
  · exact enterOpen_choices s _ _

theorem runRetract_choices (q : Option Master) (bay : Bay) : (runRetract q bay s).choices = s.choices := by
  unfold runRetract; split
  · exact awaitFeedback_choices s _ _ _ _
  · unfold enterUnclamp; rw [runUnclamp_choices]; simp

theorem runPowerDown_choices (q : Option Master) (bay : Bay) : (runPowerDown q bay s).choices = s.choices := by
  unfold runPowerDown; split
  · unfold enterRetract; rw [runRetract_choices]; simp
  · rfl

theorem enterClosing_choices (q : Option Master) (bay : Bay) (p : Phase) :
    (enterClosing q bay p s).choices = s.choices := by
  have h := (emptied_tearDown (s.moveTo q bay .closing (some p)) bay (s.bayState bay).live false).1
  unfold enterClosing
  dsimp only
  split
  · rw [runPowerDown_choices, h]; simp
  · rw [runRetract_choices, h]; simp
  · rw [runUnclamp_choices, h]; simp

theorem abortBay_choices (q : Option Master) (bay : Bay) (p : Phase) : (abortBay q bay p s).choices = s.choices := by
  unfold abortBay; split
  · rw [enterClosing_choices]; simp [endUnit_choices]
  · exact enterClosing_choices s _ _ _

theorem resetBay_choices (m : Master) (bay : Bay) : (resetBay m bay s).choices = s.choices := by
  unfold resetBay
  dsimp only
  have h : ∀ (r : State) (l : Bool) (w : State → Window),
      ((((r.tearDown bay l true).endClaims bay).setWindow bay (w ((r.tearDown bay l true).endClaims bay)))).choices =
        r.choices := fun r l w => by
    simp [endClaims_choices, (emptied_tearDown r bay l true).1]
  rw [h _ _ fun u => (u.windows.get bay).bayReset (decide (s.bayState bay = .safe)), enterOpen_choices]
  split <;> simp [endUnit_choices]

/-! The whole frame of the bay events of R29. -/

theorem event_enterSafe (q : Option Master) (bay : Bay) (c : SafeCause) : BayEventFrame s (enterSafe q bay c s) :=
  (frame_enterSafe s q bay c).event (enterSafe_choices s q bay c)

theorem event_enterClosing (q : Option Master) (bay : Bay) (p : Phase) : BayEventFrame s (enterClosing q bay p s) :=
  (frame_enterClosing s q bay p).event (enterClosing_choices s q bay p)

theorem event_abortBay (q : Option Master) (bay : Bay) (p : Phase) : BayEventFrame s (abortBay q bay p s) :=
  (frame_abortBay s q bay p).event (abortBay_choices s q bay p)

theorem event_resetBay (m : Master) (bay : Bay) : BayEventFrame s (resetBay m bay s) :=
  (frame_resetBay s m bay).event (resetBay_choices s m bay)

end Sys2Proof.Machine
end

