-- ==== Sys2Proof/Laws/Table.lean ====
section
/-! SUPPORT. Sparse tables: reading after writing, and every operation keeps the canonical form. -/

namespace Sys2Proof.Machine

variable {α : Type} {d : α}

@[simp] theorem Table.read_nil (i : Nat) : Table.read d [] i = d := rfl

theorem Table.wf_nil : Table.wf d ([] : Table α) := ⟨List.Pairwise.nil, by simp⟩

theorem Table.wf_cons {k : Nat} {v : α} {t : Table α} :
    Table.wf d ((k, v) :: t) ↔ (∀ p ∈ t, k < p.1) ∧ v ≠ d ∧ Table.wf d t := by
  simp only [Table.wf, List.map_cons, List.pairwise_cons, List.mem_map, List.mem_cons]
  constructor
  · rintro ⟨⟨h1, h2⟩, h3⟩
    exact ⟨fun p hp => h1 _ ⟨p, hp, rfl⟩, h3 _ (.inl rfl), h2, fun p hp => h3 p (.inr hp)⟩
  · rintro ⟨h1, h2, h3, h4⟩
    refine ⟨⟨?_, h3⟩, ?_⟩
    · rintro _ ⟨p, hp, rfl⟩; exact h1 p hp
    · rintro p (rfl | hp)
      · exact h2
      · exact h4 p hp

/-- An element below every listed number is at the default. -/
theorem Table.read_below {t : Table α} {i : Nat} (h : ∀ p ∈ t, i < p.1) : Table.read d t i = d := by
  induction t with
  | nil => rfl
  | cons p t ih =>
    obtain ⟨k, v⟩ := p
    have h1 : i < k := h (k, v) (by simp)
    simp only [Table.read]
    rw [if_neg (by omega)]
    exact ih fun q hq => h q (by simp [hq])

/-- A listed element reads as its value. -/
theorem Table.read_of_mem {t : Table α} (hw : Table.wf d t) {i : Nat} {v : α} (h : (i, v) ∈ t) :
    Table.read d t i = v := by
  induction t with
  | nil => cases h
  | cons p t ih =>
    obtain ⟨k, w⟩ := p
    obtain ⟨h1, -, h3⟩ := Table.wf_cons.1 hw
    simp only [Table.read]
    rcases List.mem_cons.1 h with h | h
    · cases h; simp
    · have := h1 _ h
      rw [if_neg (by simp at this; omega)]
      exact ih h3 h

/-- An element not at the default is listed. -/
theorem Table.mem_of_read {t : Table α} {i : Nat} (h : Table.read d t i ≠ d) : (i, Table.read d t i) ∈ t := by
  induction t with
  | nil => exact absurd rfl h
  | cons p t ih =>
    obtain ⟨k, v⟩ := p
    by_cases hk : k = i
    · subst hk; simp [Table.read]
    · simp only [Table.read, if_neg hk] at h ⊢
      exact List.mem_cons_of_mem _ (ih h)

/-- The listed elements are those not at the default. -/
theorem Table.mem_iff {t : Table α} (hw : Table.wf d t) {i : Nat} {v : α} :
    (i, v) ∈ t ↔ v ≠ d ∧ Table.read d t i = v := by
  constructor
  · intro h
    exact ⟨hw.2 _ h, Table.read_of_mem hw h⟩
  · rintro ⟨h1, h2⟩
    subst h2
    exact Table.mem_of_read h1

/-- Equal reads make equal tables in canonical form. -/
theorem Table.ext {t u : Table α} (ht : Table.wf d t) (hu : Table.wf d u)
    (h : ∀ i, Table.read d t i = Table.read d u i) : t = u := by
  have below : ∀ {k : Nat} {v : α} {x y : Table α}, Table.wf d ((k, v) :: x) →
      (∀ i, Table.read d ((k, v) :: x) i = Table.read d y i) → (∀ p ∈ y, k < p.1) → False := by
    intro k v x y hx he hy
    have := he k
    rw [Table.read_below hy] at this
    exact (Table.wf_cons.1 hx).2.1 (by simpa [Table.read] using this)
  induction t generalizing u with
  | nil =>
    cases u with
    | nil => rfl
    | cons p u =>
      obtain ⟨k, v⟩ := p
      exact absurd (below hu (fun i => (h i).symm) (by simp)) id
  | cons p t ih =>
    obtain ⟨k, v⟩ := p
    cases u with
    | nil => exact absurd (below ht h (by simp)) id
    | cons q u =>
      obtain ⟨l, w⟩ := q
      have ht' := Table.wf_cons.1 ht
      have hu' := Table.wf_cons.1 hu
      have hkl : k = l := by
        rcases Nat.lt_trichotomy k l with hlt | heq | hgt
        · exact absurd (below ht h fun p hp => by
            rcases List.mem_cons.1 hp with rfl | hp
            · exact hlt
            · exact Nat.lt_trans hlt (hu'.1 p hp)) id
        · exact heq
        · exact absurd (below hu (fun i => (h i).symm) fun p hp => by
            rcases List.mem_cons.1 hp with rfl | hp
            · exact hgt
            · exact Nat.lt_trans hgt (ht'.1 p hp)) id
      subst hkl
      have hvw : v = w := by simpa [Table.read] using h k
      subst hvw
      congr 1
      refine ih ht'.2.2 hu'.2.2 fun i => ?_
      by_cases hi : k = i
      · subst hi; rw [Table.read_below ht'.1, Table.read_below hu'.1]
      · simpa [Table.read, hi] using h i

variable [DecidableEq α]

theorem Table.write_mem {t : Table α} {i : Nat} {v : α} {p : Nat × α} (h : p ∈ Table.write d t i v) :
    p = (i, v) ∧ v ≠ d ∨ p ∈ t := by
  induction t with
  | nil => simp only [Table.write] at h; split at h <;> simp_all
  | cons q t ih =>
    obtain ⟨k, w⟩ := q
    simp only [Table.write] at h
    split at h
    · split at h <;> simp_all
    · split at h
      · split at h
        · exact .inr (List.mem_cons_of_mem _ h)
        · simp_all; tauto
      · rcases List.mem_cons.1 h with h | h
        · exact .inr (by simp [h])
        · rcases ih h with h | h
          · exact .inl h
          · exact .inr (List.mem_cons_of_mem _ h)

/-- A write keeps the canonical form. -/
theorem Table.wf_write {t : Table α} (h : Table.wf d t) (i : Nat) (v : α) : Table.wf d (Table.write d t i v) := by
  induction t with
  | nil => simp only [Table.write]; split <;> simp_all [Table.wf]
  | cons q t ih =>
    obtain ⟨k, w⟩ := q
    obtain ⟨h1, h2, h3⟩ := Table.wf_cons.1 h
    simp only [Table.write]
    split
    · split
      · exact h
      · rename_i hik hv
        refine Table.wf_cons.2 ⟨?_, hv, h⟩
        intro p hp
        rcases List.mem_cons.1 hp with rfl | hp
        · exact hik
        · exact Nat.lt_trans hik (h1 p hp)
    · split
      · split
        · exact h3
        · rename_i hik hv
          subst hik
          exact Table.wf_cons.2 ⟨h1, hv, h3⟩
      · refine Table.wf_cons.2 ⟨fun p hp => ?_, h2, ih h3⟩
        rcases Table.write_mem hp with ⟨rfl, -⟩ | hp
        · simp only; omega
        · exact h1 p hp

/-- Reading after a write: the value written at its number, the others as before. -/
theorem Table.read_write {t : Table α} (h : Table.wf d t) (i : Nat) (v : α) (j : Nat) :
    Table.read d (Table.write d t i v) j = if j = i then v else Table.read d t j := by
  induction t with
  | nil =>
    simp only [Table.write]
    split <;> by_cases hj : j = i <;> simp_all [Table.read]
    omega
  | cons q t ih =>
    obtain ⟨k, w⟩ := q
    obtain ⟨h1, h2, h3⟩ := Table.wf_cons.1 h
    have low : j < k → Table.read d t j = d := fun hj => Table.read_below fun p hp => Nat.lt_trans hj (h1 p hp)
    have here : Table.read d t k = d := Table.read_below h1
    simp only [Table.write]
    by_cases hj : j = i
    · subst hj
      rw [if_pos rfl]
      split
      · split
        · rename_i hlt hv
          simp only [Table.read]
          rw [if_neg (by omega), low hlt, hv]
        · simp [Table.read]
      · split
        · split
          · rename_i hik hv
            subst hik; rw [here, hv]
          · simp [Table.read]
        · rename_i h4 h5
          simp only [Table.read]
          rw [if_neg (by omega), ih h3, if_pos rfl]
    · rw [if_neg hj]
      split
      · split
        · rfl
        · simp [Table.read, Ne.symm hj]
      · split
        · rename_i hik
          subst hik
          split
          · simp [Table.read, Ne.symm hj]
          · simp [Table.read, Ne.symm hj]
        · simp only [Table.read]
          split
          · rfl
          · rw [ih h3, if_neg hj]

/-- A value that is not the default is read back from any list. -/
theorem Table.read_write_of_ne {t : Table α} {v : α} (hv : v ≠ d) (i j : Nat) :
    Table.read d (Table.write d t i v) j = if j = i then v else Table.read d t j := by
  have head : ∀ u : Table α, Table.read d ((i, v) :: u) j = if j = i then v else Table.read d u j := by
    intro u
    by_cases hj : j = i
    · simp [Table.read, hj]
    · simp [Table.read, hj, Ne.symm hj]
  induction t with
  | nil => simp only [Table.write, if_neg hv]; exact head []
  | cons q t ih =>
    obtain ⟨k, w⟩ := q
    simp only [Table.write, if_neg hv]
    split
    · exact head _
    · split
      · rename_i hik
        subst hik
        rw [head]
        by_cases hj : j = i
        · simp [hj]
        · simp [Table.read, hj, Ne.symm hj]
      · simp only [Table.read]
        split
        · rw [if_neg (by omega)]
        · exact ih

/-- A change of every element keeps the canonical form. -/
theorem Table.wf_mapAll {t : Table α} (h : Table.wf d t) (f : Nat → α → α) : Table.wf d (Table.mapAll d f t) := by
  refine ⟨?_, ?_⟩
  · unfold Table.mapAll
    have : (((t.map fun p => (p.1, f p.1 p.2)).filter fun p => p.2 ≠ d).map Prod.fst).Sublist (t.map Prod.fst) := by
      refine (List.Sublist.map _ List.filter_sublist).trans ?_
      simp [List.map_map, Function.comp_def]
    exact h.1.sublist this
  · intro p hp
    simp only [Table.mapAll, List.mem_filter, decide_eq_true_eq] at hp
    exact hp.2

/-- A function that keeps the default is applied to every element. -/
theorem Table.read_mapAll {t : Table α} (h : Table.wf d t) {f : Nat → α → α} (i : Nat) (hf : f i d = d) :
    Table.read d (Table.mapAll d f t) i = f i (Table.read d t i) := by
  induction t with
  | nil => simp [Table.mapAll, hf]
  | cons q t ih =>
    obtain ⟨k, w⟩ := q
    obtain ⟨h1, h2, h3⟩ := Table.wf_cons.1 h
    have ih := ih h3
    by_cases hk : k = i
    · subst hk
      have here : Table.read d t k = d := Table.read_below h1
      rw [here, hf] at ih
      by_cases hv : f k w = d
      · have : Table.mapAll d f ((k, w) :: t) = Table.mapAll d f t := by simp [Table.mapAll, hv]
        rw [this, ih]; simp [Table.read, hv]
      · have : Table.mapAll d f ((k, w) :: t) = (k, f k w) :: Table.mapAll d f t := by simp [Table.mapAll, hv]
        rw [this]; simp [Table.read]
    · by_cases hv : f k w = d
      · have : Table.mapAll d f ((k, w) :: t) = Table.mapAll d f t := by simp [Table.mapAll, hv]
        rw [this, ih]; simp [Table.read, hk]
      · have : Table.mapAll d f ((k, w) :: t) = (k, f k w) :: Table.mapAll d f t := by simp [Table.mapAll, hv]
        rw [this]; simp [Table.read, hk, ih]

theorem Table.mapAll_mem {t : Table α} {f : Nat → α → α} {p : Nat × α} :
    p ∈ Table.mapAll d f t ↔ ∃ v, (p.1, v) ∈ t ∧ f p.1 v = p.2 ∧ p.2 ≠ d := by
  simp only [Table.mapAll, List.mem_filter, List.mem_map, decide_eq_true_eq]
  constructor
  · rintro ⟨⟨q, hq, rfl⟩, h⟩
    exact ⟨q.2, hq, rfl, h⟩
  · rintro ⟨v, h1, h2, h3⟩
    exact ⟨⟨(p.1, v), h1, by simp [h2]⟩, h3⟩

/-- Writing what stands there already changes nothing. -/
theorem Table.write_read {t : Table α} (h : Table.wf d t) (i : Nat) : Table.write d t i (Table.read d t i) = t := by
  refine Table.ext (Table.wf_write h _ _) h fun j => ?_
  rw [Table.read_write h]
  split
  · simp_all
  · rfl

/-- The second of two writes to one number stands. -/
theorem Table.write_write {t : Table α} (h : Table.wf d t) (i : Nat) (v w : α) :
    Table.write d (Table.write d t i v) i w = Table.write d t i w := by
  refine Table.ext (Table.wf_write (Table.wf_write h _ _) _ _) (Table.wf_write h _ _) fun j => ?_
  rw [Table.read_write (Table.wf_write h _ _), Table.read_write h, Table.read_write h]
  split <;> rfl

end Sys2Proof.Machine
end

