-- ==== Sys2Proof/Laws/Requests.lean ====
section
/-! SUPPORT. Requests and attention: what `serve` does with an admitted request, what raising a cause leaves. -/

namespace Sys2Proof.Machine

/-! ### Admission -/

theorem Admitted.running {r : Req} {who : Sender} {tagged : Bool} {s : State} (h : Admitted r who tagged s) :
    s.running = true := h.1

theorem Admitted.listens {r : Req} {who : Sender} {tagged : Bool} {s : State} (h : Admitted r who tagged s) :
    s.listens r.port = true := by simp [State.listens, h.1, h.2.1]

theorem bayOfTag_eq_none {t : Byte} : bayOfTag t = none ↔ t ≠ 1 ∧ t ≠ 2 := by
  unfold bayOfTag
  split
  · simp_all
  · split <;> simp_all

/-- An admitted request passes every check of R194. -/
theorem admission_eq_none {r : Req} {who : Sender} {fits tagged loading : Bool} {s : State}
    (h : Admitted r who tagged s) (hf : fits = true) : admission r ⟨who, fits, tagged, loading⟩ s = none := by
  obtain ⟨-, -, h3, h4, h5, h6⟩ := h
  unfold admission
  rw [if_neg (by simp [h3]), if_neg, if_neg (by simp [hf]), if_neg]
  · rintro ⟨ht, hp, hb⟩
    rcases h6 ht hp with h | h <;> simp [h, bayOfTag] at hb
  · cases who
    · simp [Sender.permits]
    · simp [Sender.permits, h4 rfl]
    · simp [Sender.permits, h5 rfl]

/-- An admitted request is its owner's rule, with the answer put into the sender's port. -/
theorem serve_of_admitted {r : Req} {who : Sender} {fits tagged loading : Bool} {s : State}
    (rule : State → State × Answer) (h : Admitted r who tagged s) (hf : fits = true) :
    serve r ⟨who, fits, tagged, loading⟩ rule s = .next ((rule s).1.reply r.port (rule s).2) := by
  simp only [serve, h.listens, admission_eq_none h hf, if_true]

/-- The same for a request with one operand length. -/
theorem serve_fixed {r : Req} {who : Sender} {tagged : Bool} {n : Nat} {s : State}
    (rule : State → State × Answer) (h : Admitted r who tagged s) (hn : r.len.toNat = n) :
    serve r (Gate.fixed who tagged n r) rule s = .next ((rule s).1.reply r.port (rule s).2) :=
  serve_of_admitted rule h (by simp [hn])

/-- A request whose tag is read is admitted where it is not read. -/
theorem Admitted.untagged {r : Req} {who : Sender} {tagged : Bool} {s : State} (h : Admitted r who tagged s) :
    Admitted r who false s := ⟨h.1, h.2.1, h.2.2.1, h.2.2.2.1, h.2.2.2.2.1, by simp⟩

/-- What a station may send, any port may. -/
theorem Admitted.any {r : Req} {who : Sender} {tagged : Bool} {s : State} (h : Admitted r who tagged s) :
    Admitted r .anyPort tagged s := ⟨h.1, h.2.1, h.2.2.1, by simp, by simp, h.2.2.2.2.2⟩

/-- `serve` always answers a next state. -/
theorem serve_next (r : Req) (g : Gate) (rule : State → State × Answer) (s : State) :
    ∃ t : State, serve r g rule s = .next t ∧ (t = s ∨ (∃ x, t = s.reply r.port x) ∨ t = (rule s).1.reply r.port (rule s).2) := by
  unfold serve
  split
  · split
    · exact ⟨_, rfl, .inr (.inl ⟨_, rfl⟩)⟩
    · exact ⟨_, rfl, .inr (.inr rfl)⟩
  · exact ⟨_, rfl, .inl rfl⟩

theorem event_of_running {f : State → State} {s : State} (h : s.running = true) : event f s = .next (f s) := by
  simp [event, h]

theorem inputEdge_of_running {f g : State → State} {s : State} (h : s.running = true) :
    inputEdge f g s = .next (g (f s)) := by simp [inputEdge, h]

theorem Req.bay_of_tag {r : Req} (h : r.port = .ssv) (ht : r.tag = 1 ∨ r.tag = 2) :
    r.bay = if r.tag = 1 then .a else .b := by
  rcases ht with ht | ht <;> simp [Req.bay, h, ht, bayOfTag]

/-- A sequencer's request acts on its own bay. -/
theorem Req.sequencer_bay {r : Req} (h : r.port ≠ .ssv) : sequencer r.bay = r.port := by
  unfold Req.bay
  split <;> simp_all [sequencer]

/-! ### Edge entries -/

theorem mem_insertEdge {e f : Edge} {l : List Edge} : f ∈ insertEdge e l ↔ f = e ∨ f ∈ l := by
  induction l with
  | nil => simp [insertEdge]
  | cons g l ih =>
    simp only [insertEdge]
    split
    · subst_vars; simp
    · split
      · simp
      · simp only [List.mem_cons, ih]; tauto

theorem Edge.rank_injective {e f : Edge} (h : e.rank = f.rank) : e = f := by
  obtain ⟨c, b, x⟩ := e
  obtain ⟨c', b', x'⟩ := f
  have hb : ∀ y, bayCode y < 3 := by rintro (_ | ⟨⟨⟩⟩) <;> decide
  have hx : ∀ y : Sub, y.rank < 3 := by intro y; cases y <;> decide
  have h1 := hb b
  have h2 := hb b'
  have h3 := hx x
  have h4 := hx x'
  simp only [Edge.rank] at h
  have ec : c = c' := by
    have : c.code = c'.code := by omega
    revert this; cases c <;> cases c' <;> decide
  have eb : b = b' := by
    have : bayCode b = bayCode b' := by subst ec; omega
    revert this; rcases b with _ | ⟨⟨⟩⟩ <;> rcases b' with _ | ⟨⟨⟩⟩ <;> decide
  have ex : x = x' := by
    have : x.rank = x'.rank := by subst ec eb; omega
    revert this; cases x <;> cases x' <;> decide
  rw [ec, eb, ex]

/-- A list in delivery order stays in it (R201). -/
theorem insertEdge_pairwise {e : Edge} {l : List Edge} (h : l.Pairwise fun x y => x.rank < y.rank) :
    (insertEdge e l).Pairwise fun x y => x.rank < y.rank := by
  induction l with
  | nil => simp [insertEdge]
  | cons g l ih =>
    obtain ⟨h1, h2⟩ := List.pairwise_cons.1 h
    simp only [insertEdge]
    split
    · exact h
    · split
      · rename_i hne hlt
        refine List.pairwise_cons.2 ⟨?_, h⟩
        intro x hx
        rcases List.mem_cons.1 hx with rfl | hx
        · exact hlt
        · exact Nat.lt_trans hlt (h1 x hx)
      · rename_i hne hlt
        refine List.pairwise_cons.2 ⟨?_, ih h2⟩
        intro x hx
        rcases mem_insertEdge.1 hx with rfl | hx
        · have : g.rank ≠ x.rank := fun hr => hne (Edge.rank_injective hr)
          omega
        · exact h1 x hx

/-! ### Raising causes -/

theorem Raised.refl (s : State) : Raised (fun _ _ => False) s s := fun _ => ⟨rfl, by simp⟩

theorem Raised.trans {p q : Master → Edge → Prop} {s t u : State} (h : Raised p s t) (h' : Raised q t u) :
    Raised (fun m e => p m e ∨ q m e) s u := fun m =>
  ⟨((h' m).1).trans (h m).1, fun e => by rw [(h' m).2, (h m).2]; tauto⟩

theorem Raised.congr {p q : Master → Edge → Prop} {s t : State} (h : Raised p s t) (hpq : ∀ m e, p m e ↔ q m e) :
    Raised q s t := fun m => ⟨(h m).1, fun e => by rw [(h m).2, hpq]⟩

/-- Only the attention sets matter. -/
theorem Raised.of_attn {p : Master → Edge → Prop} {s t s' t' : State} (h : Raised p s t) (hs : s'.attn = s.attn)
    (ht : t'.attn = t.attn) : Raised p s' t' := fun m => by
  rw [hs, ht]; exact h m

theorem raised_of_attn_eq {s t : State} (h : t.attn = s.attn) : Raised (fun _ _ => False) s t := fun m => by
  rw [h]; exact ⟨rfl, by simp⟩

/-- `raise` raises its cause to its master. -/
theorem raised_raise (m : Master) (e : Edge) (s : State) : Raised (fun k f => k = m ∧ f = e) s (s.raise m e) := by
  intro k
  simp only [State.raise_attn, Tri.get_set]
  split
  · subst_vars
    exact ⟨rfl, fun f => by rw [mem_insertEdge]; tauto⟩
  · exact ⟨rfl, fun f => by simp_all⟩

/-- `raiseBay` raises a cause to the bay's sequencer and to the station, less the requester (R8). -/
theorem raised_raiseBay (cause : EdgeCause) (q : Option Master) (bay : Bay) (s : State) :
    Raised (fun m e => e = ⟨cause, some bay, .none⟩ ∧ (m = sequencer bay ∨ m = .ssv) ∧ some m ≠ q) s
      (s.raiseBay cause q bay) := by
  unfold State.raiseBay
  dsimp only
  have h1 : Raised (fun m e => e = ⟨cause, some bay, .none⟩ ∧ m = sequencer bay ∧ some m ≠ q) s
      (if q = some (sequencer bay) then s else s.raise (sequencer bay) ⟨cause, some bay, .none⟩) := by
    split
    · exact (Raised.refl s).congr fun m e => by
        constructor
        · exact False.elim
        · rintro ⟨-, rfl, h⟩; exact h (by simp_all)
    · exact (raised_raise _ _ s).congr fun m e => by
        constructor
        · rintro ⟨rfl, rfl⟩; exact ⟨rfl, rfl, fun h => by simp_all⟩
        · rintro ⟨rfl, rfl, -⟩; exact ⟨rfl, rfl⟩
  split
  · exact h1.congr fun m e => by
      constructor
      · rintro ⟨h, h', h''⟩; exact ⟨h, .inl h', h''⟩
      · rintro ⟨h, rfl | rfl, h''⟩
        · exact ⟨h, rfl, h''⟩
        · simp_all
  · refine (h1.trans (raised_raise .ssv _ _)).congr fun m e => ?_
    constructor
    · rintro (⟨h, h', h''⟩ | ⟨rfl, rfl⟩)
      · exact ⟨h, .inl h', h''⟩
      · exact ⟨rfl, .inr rfl, fun h => by simp_all⟩
    · rintro ⟨rfl, rfl | rfl, h''⟩
      · exact .inl ⟨rfl, rfl, h''⟩
      · exact .inr ⟨rfl, rfl⟩

theorem raised_bayState (q : Option Master) (bay : Bay) (s : State) :
    Raised (BayStateTold q bay) s (s.raiseBay .bayState q bay) := raised_raiseBay _ _ _ _

/-! ### Statistics -/

/-- `count` increments one counter of one bay (R154). -/
@[simp] theorem stat_count (bay : Bay) (c : Stat) (s : State) (y : Bay) (k : Stat) :
    (s.count bay c).stat y k = if y = bay ∧ k = c then bumpTo 4294967295 (s.stat y k) else s.stat y k := by
  have hi : ∀ c k : Stat, k.index = c.index ↔ k = c := by intro c k; cases c <;> cases k <;> decide
  have hn : bumpTo 4294967295 (s.stat bay c) ≠ 0 := by unfold bumpTo; split <;> omega
  unfold State.stat State.count
  simp only [Per.get_set]
  by_cases hy : y = bay
  · subst hy
    rw [if_pos rfl, Table.read_write_of_ne (by exact hn)]
    by_cases hk : k = c
    · subst hk; simp [State.stat]
    · rw [if_neg (by rwa [hi]), if_neg (by simp [hk])]
  · rw [if_neg hy, if_neg (by simp [hy])]

/-- The end of a unit increments UNITS and the counter of its verdict (R142, R154). -/
@[simp] theorem stat_endUnit (bay : Bay) (v : UnitVerdict) (c : Option UnitCause) (s : State) (y : Bay) (k : Stat) :
    (s.endUnit bay v c).stat y k =
      if y = bay ∧ (k = .units ∨ k = v.stat) then bumpTo 4294967295 (s.stat y k) else s.stat y k := by
  have hv : v.stat ≠ .units := by cases v <;> decide
  simp only [State.endUnit, stat_count]
  by_cases hy : y = bay <;> by_cases hk : k = v.stat <;> by_cases hu : k = .units <;> simp_all [State.stat]

/-- A counter reads the statistics alone. -/
theorem stat_congr {s t : State} (h : t.stats = s.stats) (bay : Bay) (c : Stat) : t.stat bay c = s.stat bay c := by
  simp [State.stat, h]

end Sys2Proof.Machine
end

