-- ==== Sys2Proof/Laws/Network.lean ====
section
/-! SUPPORT. The Network Stimulus Engine: runtime records, queues, scheduling, the ends of frames and the two changes of
a port's service, each with what it leaves. -/

namespace Sys2Proof.Machine

/-! ### Queues -/

theorem Queues.get_set (q : Queues) (c k : Cls) (l : List Nat) : (q.set c l).get k = if k = c then l else q.get k := by
  cases c <;> cases k <;> rfl

@[simp] theorem Queues.get_set_self (q : Queues) (c : Cls) (l : List Nat) : (q.set c l).get c = l := by cases c <;> rfl

@[simp] theorem Queues.set_set (q : Queues) (c : Cls) (l k : List Nat) : (q.set c l).set c k = q.set c k := by
  cases c <;> rfl

@[simp] theorem Queues.get_empty (c : Cls) : ({} : Queues).get c = [] := by cases c <;> rfl

theorem Queues.eq_of_get {p q : Queues} (h : ∀ c, p.get c = q.get c) : p = q := by
  have h3 := h .c3
  have h2 := h .c2
  have h1 := h .c1
  have h0 := h .c0
  cases p; cases q; simp_all [Queues.get]

/-! ### Runtime records -/

theorem rt_setRt {n : Net} (h : Table.wf {} n.runtime) (i j : Nat) (x : Runtime) :
    (n.setRt i x).rt j = if j = i then x else n.rt j := Table.read_write h i x j

theorem wf_setRt {n : Net} (h : Table.wf {} n.runtime) (i : Nat) (x : Runtime) : Table.wf {} (n.setRt i x).runtime :=
  Table.wf_write h i x

/-- A runtime record changes nothing else of a bay's part. -/
theorem setRt_eq (n : Net) (i : Nat) (x : Runtime) : n.setRt i x = { n with runtime := (n.setRt i x).runtime } := rfl

theorem wf_enqueue {n : Net} (h : Table.wf {} n.runtime) (c : Cls) (i : Nat) : Table.wf {} (n.enqueue c i).runtime :=
  Table.wf_write h i _

/-- An entry appended: at the tail of its queue, marked queued (R65). -/
theorem rt_enqueue {n : Net} (h : Table.wf {} n.runtime) (c : Cls) (i j : Nat) :
    (n.enqueue c i).rt j = if j = i then { n.rt i with queued := true } else n.rt j := Table.read_write h i _ j

theorem enqueue_eq (n : Net) (c : Cls) (i : Nat) : n.enqueue c i =
    { n with queues := n.queues.set c (n.queues.get c ++ [i]), runtime := (n.enqueue c i).runtime } := rfl

theorem wf_flush {n : Net} (h : Table.wf {} n.runtime) : Table.wf {} n.flush.runtime := by
  show Table.wf {} (Table.mapAll {} (fun _ (x : Runtime) => { x with queued := false, repeatLeft := 0 }) n.runtime)
  exact Table.wf_mapAll h _

/-- The flush takes every entry out of the queues (R77, R79). -/
theorem rt_flush {n : Net} (h : Table.wf {} n.runtime) (j : Nat) :
    n.flush.rt j = { n.rt j with queued := false, repeatLeft := 0 } :=
  Table.read_mapAll (f := fun _ (x : Runtime) => { x with queued := false, repeatLeft := 0 }) h j rfl

theorem flush_eq (n : Net) : n.flush = { n with queues := {}, runtime := n.flush.runtime } := rfl

theorem wf_advanceAlive {n : Net} (h : Table.wf {} n.runtime) (i : Nat) : Table.wf {} (n.advanceAlive i).runtime :=
  Table.wf_write h i _

theorem rt_advanceAlive {n : Net} (h : Table.wf {} n.runtime) (i j : Nat) :
    (n.advanceAlive i).rt j = if j = i then { n.rt i with aliveCount := ((n.rt i).aliveCount + 1) % 16 } else n.rt j :=
  Table.read_write h i _ j

/-! ### Scheduling (R62, R63) -/

/-- A change of the runtime records of the entries that `p` picks: the table walked entry by entry is the records changed
one by one. -/
theorem foldl_setRt {frames : Table FrameDef} (d0 : FrameDef) (hf : Table.wf d0 frames) (p : FrameDef → Bool)
    (hp : p d0 = false)
    (g : FrameDef → Runtime → Runtime) {n : Net} (h : Table.wf {} n.runtime) :
    let m := frames.foldl (fun m e => if p e.2 then m.setRt e.1 (g e.2 (m.rt e.1)) else m) n
    m = { n with runtime := m.runtime } ∧ Table.wf {} m.runtime ∧
    ∀ i, m.rt i = if p (Table.read d0 frames i) then g (Table.read d0 frames i) (n.rt i) else n.rt i := by
  induction frames generalizing n with
  | nil => exact ⟨rfl, h, fun i => by simp [hp]⟩
  | cons e l ih =>
    obtain ⟨k, d⟩ := e
    obtain ⟨h1, -, h3⟩ := Table.wf_cons.1 hf
    have hk : Table.read d0 l k = d0 := Table.read_below h1
    simp only [List.foldl_cons]
    by_cases hd : p d = true
    · simp only [hd, if_true]
      obtain ⟨e1, e2, e3⟩ := ih h3 (wf_setRt h k (g d (n.rt k)))
      refine ⟨e1, e2, fun i => ?_⟩
      rw [e3]
      simp only [rt_setRt h, Table.read]
      by_cases hi : k = i
      · subst hi; simp [hk, hp, hd]
      · simp [hi, Ne.symm hi]
    · rw [if_neg hd]
      obtain ⟨e1, e2, e3⟩ := ih h3 h
      refine ⟨e1, e2, fun i => ?_⟩
      rw [e3]
      simp only [Table.read]
      by_cases hi : k = i
      · subst hi; simp [hk, hp, hd]
      · simp [hi]

/-- The records that scheduling gives a first due time. -/
theorem schedule_spec {frames : Table FrameDef} (hf : Table.wf {} frames) (bay : Bay) (wake : Bool) (now : Time)
    {n : Net} (h : Table.wf {} n.runtime) :
    let m := n.schedule bay wake now frames
    m = { n with runtime := m.runtime } ∧ Table.wf {} m.runtime ∧
    ∀ i, let d := Table.read {} frames i
      m.rt i = { n.rt i with nextDue :=
        if d.valid = true ∧ d.hasMember bay = true ∧ d.wake = wake ∧ 0 < d.period then some (after now d.phase)
        else (n.rt i).nextDue } := by
  obtain ⟨h1, h2, h3⟩ := foldl_setRt {} hf
    (fun d => d.valid && d.hasMember bay && decide (d.wake = wake) && decide (0 < d.period)) rfl
    (fun d x => { x with nextDue := some (after now d.phase) }) h
  refine ⟨h1, h2, fun i => (h3 i).trans ?_⟩
  by_cases hc : (Table.read {} frames i).valid = true ∧ (Table.read {} frames i).hasMember bay = true ∧
      (Table.read {} frames i).wake = wake ∧ 0 < (Table.read {} frames i).period
  · rw [if_pos (by simpa [and_assoc] using hc), if_pos hc]
  · rw [if_neg (by simpa [and_assoc] using hc), if_neg hc]

/-- The records whose alive count entry to POWERED clears. -/
theorem clearAlive_spec {frames : Table FrameDef} (hf : Table.wf {} frames) (bay : Bay) {n : Net}
    (h : Table.wf {} n.runtime) :
    let m := n.clearAlive bay frames
    m = { n with runtime := m.runtime } ∧ Table.wf {} m.runtime ∧
    ∀ i, let d := Table.read {} frames i
      m.rt i = { n.rt i with aliveCount :=
        if d.valid = true ∧ d.hasMember bay = true then 0 else (n.rt i).aliveCount } := by
  obtain ⟨h1, h2, h3⟩ := foldl_setRt {} hf (fun d => d.valid && d.hasMember bay) rfl
    (fun _ x => { x with aliveCount := 0 }) h
  refine ⟨h1, h2, fun i => (h3 i).trans ?_⟩
  by_cases hc : (Table.read {} frames i).valid = true ∧ (Table.read {} frames i).hasMember bay = true
  · rw [if_pos (by simpa using hc), if_pos hc]
  · rw [if_neg (by simpa using hc), if_neg hc]

/-! ### The selection (R67) -/

/-- With nothing waiting nothing starts. -/
theorem select_of_empty {n : Net} (h : n.queues = {}) (p : Setup) (frames : Table FrameDef) :
    n.select p frames = n := by
  unfold Net.select
  split
  · simp [h, Queues.rotation]
  · rfl

/-- A port that is not free starts nothing. -/
theorem select_of_busy {n : Net} (h : ¬ (n.portState = .active ∧ n.current = none ∧ n.lineBusy = false)) (p : Setup)
    (frames : Table FrameDef) : n.select p frames = n := by
  unfold Net.select
  rw [if_neg]
  simpa [Option.isNone_iff_eq_none] using h

/-- The selection touches tokens, the rotation and the frame being sent. -/
theorem select_eq (n : Net) (p : Setup) (frames : Table FrameDef) : n.select p frames =
    { n with
      tokens := (n.select p frames).tokens, curClass := (n.select p frames).curClass
      credit := (n.select p frames).credit, current := (n.select p frames).current } := by
  unfold Net.select
  split
  · split
    · rfl
    · split
      · rfl
      · dsimp only
        split
        · have : ∀ c m, Net.spend p c m = { m with
              curClass := (Net.spend p c m).curClass, credit := (Net.spend p c m).credit } := by
            intro c m
            unfold Net.spend
            dsimp only
            generalize (if c = m.curClass then m.credit else p.weight c) - 1 = k
            split <;> rfl
          rw [this]; rfl
        · rfl
  · rfl

/-- With the line idle, a selection that starts nothing leaves the state as it is. -/
theorem State.selectIdle_of_none {s : State} {bay : Bay}
    (h : (s.nets.get bay).select (s.setups.get bay) s.frames = s.nets.get bay) : s.selectIdle bay = s := by
  unfold State.selectIdle; rw [h]; simp [State.setNet]

/-- All that a selection in an event that leaves the line as it is can do (R60, R67): nothing, or the start that
`Net.select` makes, where no frame from the unit is on the line. -/
theorem State.select_cases (s : State) (bay : Bay) :
    let n := (s.nets.get bay).select (s.setups.get bay) s.frames
    (n.current = (s.nets.get bay).current ∧ s.select bay = s) ∨
    (n.current ≠ (s.nets.get bay).current ∧
      s.select bay = { (if Config.unitOnLine s.choices then s else s.setNet bay n) with choices := s.choices + 1 }) := by
  dsimp only
  unfold State.select
  dsimp only
  split
  · exact .inl ⟨‹_›, rfl⟩
  · refine .inr ⟨‹_›, ?_⟩
    split <;> rfl

/-- A selection that starts nothing leaves the state as it is. -/
theorem State.select_of_none {s : State} {bay : Bay}
    (h : (s.nets.get bay).select (s.setups.get bay) s.frames = s.nets.get bay) : s.select bay = s := by
  rcases s.select_cases bay with ⟨-, e⟩ | ⟨e, -⟩
  · exact e
  · rw [h] at e; exact absurd rfl e

/-! ### Service (R62, R79) -/

/-- The state of a bay's part after entry to POWERED, before the selection. -/
theorem portOn_spec {s : State} {bay : Bay} (hf : Table.wf {} s.frames)
    (h : Table.wf {} (s.nets.get bay).runtime) (hq : (s.nets.get bay).queues = {}) :
    ∃ n, s.portOn bay = s.setNet bay n ∧ InService s bay (s.nets.get bay) n ∧ Table.wf {} n.runtime := by
  unfold State.portOn
  dsimp only
  set n1 : Net := { s.nets.get bay with
    portState := .active, bitRate := (s.setups.get bay).bitRate, tokens := (s.setups.get bay).bucketDepth, fails := 0
    curClass := .c2, credit := (s.setups.get bay).w2, lineBusy := false, accruedAt := s.rackTime
    current := (s.nets.get bay).current.map Current.restale } with hn1
  have hw1 : Table.wf {} n1.runtime := h
  obtain ⟨a1, a2, a3⟩ := clearAlive_spec hf bay hw1
  obtain ⟨b1, b2, b3⟩ := schedule_spec hf bay true s.rackTime a2
  refine ⟨_, ?_, ?_, b2⟩
  · have hq' : ((n1.clearAlive bay s.frames).schedule bay true s.rackTime s.frames).queues = {} := by
      rw [b1, a1]; exact hq
    refine State.select_of_none ?_
    simp only [State.setNet_nets, State.setNet_setups, State.setNet_frames, Per.get_set_self, select_of_empty hq']
  · refine ⟨?_, fun i => ?_⟩
    · rw [b1, a1]; rfl
    · rw [b3, a3]
      simp only [State.frame, FrameDef.wake, decide_eq_true_eq]
      rfl

theorem rt_nextDue_none {n : Net} (h : Table.wf {} n.runtime) (j : Nat) :
    ({ n with runtime := Table.mapAll {} (fun _ x => { x with nextDue := none }) n.runtime } : Net).rt j =
      { n.rt j with nextDue := none } :=
  Table.read_mapAll (f := fun _ (x : Runtime) => { x with nextDue := none }) h j rfl

/-- A port goes OFF (R79): its part of the engine and TX_DROPS by the rule, the runtime records canonical, all else kept. -/
theorem portOff_spec {s : State} {bay : Bay} (h : Table.wf {} (s.nets.get bay).runtime) :
    let t := s.portOff bay
    PortOff bay s t ∧ Table.wf {} (t.nets.get bay).runtime ∧ t = { s with nets := t.nets, stats := t.stats } := by
  have hfl := wf_flush h
  have hwf : Table.wf {} (Table.mapAll ({} : Runtime) (fun _ x => { x with nextDue := none })
      (s.nets.get bay).flush.runtime) := Table.wf_mapAll hfl _
  have hrt : ∀ j, Table.read ({} : Runtime) (Table.mapAll {} (fun _ x => { x with nextDue := none })
      (s.nets.get bay).flush.runtime) j =
        { (s.nets.get bay).rt j with queued := false, repeatLeft := 0, nextDue := none } := by
    intro j
    rw [Table.read_mapAll hfl j rfl]
    have := rt_flush h j
    simp only [Net.rt] at this ⊢
    rw [this]
  unfold State.portOff PortOff
  dsimp only
  rcases hc : (s.nets.get bay).current with _ | c
  · refine ⟨⟨?_, fun j => ?_, by simp, by simp [State.stat], by simp⟩, by simpa using hwf, rfl⟩
    · simp [Net.flush, hc]
    · simp [Net.rt, hrt]
  · by_cases ho : c.onLine = true
    · simp only [ho, if_true]
      refine ⟨⟨?_, fun j => ?_, by simp [ho], by simp [State.stat], by simp⟩, by simpa using hwf, rfl⟩
      · simp [Net.flush, ho]
      · simp [Net.rt, hrt, ho]
    · simp only [ho]
      have ho' : c.onLine = false := by simpa using ho
      refine ⟨⟨?_, fun j => ?_, fun _ => ?_, by simp [ho'], by simp⟩, ?_, rfl⟩
      · simp [Net.flush, Net.advanceAlive, Net.setRt, ho']
      · simp only [State.count_nets, State.setNet_nets, Per.get_set_self, Bool.false_eq_true, if_false]
        rw [rt_advanceAlive (by exact hwf)]
        by_cases hj : j = c.entry
        · subst hj; simp [Net.rt, hrt, ho']
        · simp [Net.rt, hrt, hj, ho', Ne.symm hj]
      · rw [if_neg (by simp), stat_count]; simp [State.stat]
      · simp only [State.count_nets, State.setNet_nets, Per.get_set_self, Bool.false_eq_true, if_false]
        exact wf_advanceAlive (by exact hwf) _

/-! ### The end of a frame (R76) -/

/-- A frame's end: its place in the queue given up, a repeat still owed appended at the tail. -/
theorem endFrame_spec {n : Net} (h : Table.wf {} n.runtime) (c : Current) :
    let x := n.rt c.entry
    let m := n.endFrame c
    m = { n with
      current := none, runtime := m.runtime
      queues := n.queues.set c.cls ((n.queues.get c.cls).erase c.entry ++
        if 1 < x.repeatLeft then [c.entry] else []) } ∧
    Table.wf {} m.runtime ∧
    ∀ j, m.rt j = if j = c.entry then { x with
      queued := decide (1 < x.repeatLeft), aliveCount := (x.aliveCount + 1) % 16, repeatLeft := x.repeatLeft - 1 }
      else n.rt j := by
  have hw : ∀ (q : Queues) (y : Option Current), Table.wf {} ({ n with current := y, queues := q } : Net).runtime :=
    fun _ _ => h
  unfold Net.endFrame
  dsimp only
  by_cases hl : 1 < (n.rt c.entry).repeatLeft
  · rw [if_pos (by omega)]
    refine ⟨?_, Table.wf_write (Table.wf_write h _ _) _ _, fun j => ?_⟩
    · simp [Net.enqueue, Net.setRt, hl]
    · rw [rt_enqueue (wf_setRt (hw _ _) _ _), rt_setRt (hw _ _), rt_setRt (hw _ _)]
      by_cases hj : j = c.entry
      · simp [hj, hl]
      · simp only [hj, if_false]; rfl
  · rw [if_neg (by omega)]
    refine ⟨?_, Table.wf_write h _ _, fun j => ?_⟩
    · simp [Net.setRt, hl]
    · rw [rt_setRt (hw _ _)]
      by_cases hj : j = c.entry
      · simp [hj, hl]
      · simp only [hj, if_false]; rfl

end Sys2Proof.Machine
end

