-- ==== Sys2Proof/Laws/PerInstr.lean ====
section
/-! SUPPORT. The per-constructor family `Shape`: what well-formedness says of a command with a row in the code table
of R197. One lemma for each constructor; the host joins them. -/

namespace Sys2Proof.Laws

open Sys2Proof.Machine

/-- A well-formed request announces at most 250 operand bytes (R190, R193), and a request has at most one row in the
code table, that of its own port (R197). -/
def Shape.Statement (i : Instr) : Prop :=
  i.wf = true → ∀ row, requestRow i = some row → row.req.len.toNat ≤ 250

/-- A command with no row says nothing. -/
theorem shape_of_none {i : Instr} (h : requestRow i = none) : Shape.Statement i := by
  intro _ row hr; rw [h] at hr; cases hr

/-- A request whose well-formedness bounds its operand length. -/
theorem shape_of_wf {i : Instr} {row : Row} (h : requestRow i = some row) (hw : i.wf = true → row.req.wf = true) :
    Shape.Statement i := by
  intro hi r hr
  rw [h] at hr
  cases hr
  exact of_decide_eq_true (hw hi)

theorem Shape.powerOn (selA selB selS : Bool) : Shape.Statement (.powerOn selA selB selS) := shape_of_none rfl
theorem Shape.rstnLow : Shape.Statement .rstnLow := shape_of_none rfl
theorem Shape.endOfLoad (how : LoadEnd) : Shape.Statement (.endOfLoad how) := shape_of_none rfl
theorem Shape.calSaveEnd (how : SaveEnd) : Shape.Statement (.calSaveEnd how) := shape_of_none rfl
theorem Shape.selRisesEarly (port : Master) : Shape.Statement (.selRisesEarly port) := shape_of_none rfl
theorem Shape.operandLengthOver250 (r : Req) (code : Byte) : Shape.Statement (.operandLengthOver250 r code) :=
  shape_of_none rfl
theorem Shape.unknownRequest (r : Req) (code : Byte) : Shape.Statement (.unknownRequest r code) := shape_of_none rfl
theorem Shape.statusRead (r : Req) : Shape.Statement (.statusRead r) := shape_of_wf rfl id
theorem Shape.attentionRead (r : Req) : Shape.Statement (.attentionRead r) := shape_of_wf rfl id
theorem Shape.noticePost (r : Req) (target code : Byte) : Shape.Statement (.noticePost r target code) :=
  shape_of_wf rfl id
theorem Shape.clamp (r : Req) : Shape.Statement (.clamp r) := shape_of_wf rfl id
theorem Shape.contact (r : Req) : Shape.Statement (.contact r) := shape_of_wf rfl id
theorem Shape.power (r : Req) : Shape.Statement (.power r) := shape_of_wf rfl id
theorem Shape.start (r : Req) (o : StartOps) : Shape.Statement (.start r o) :=
  shape_of_wf rfl fun h => (Bool.and_eq_true_iff.mp h).1
theorem Shape.finish (r : Req) : Shape.Statement (.finish r) := shape_of_wf rfl id
theorem Shape.unload (r : Req) : Shape.Statement (.unload r) := shape_of_wf rfl id
theorem Shape.abort (r : Req) : Shape.Statement (.abort r) := shape_of_wf rfl id
theorem Shape.release (r : Req) : Shape.Statement (.release r) := shape_of_wf rfl id
theorem Shape.bayReset (r : Req) : Shape.Statement (.bayReset r) := shape_of_wf rfl id
theorem Shape.baySetupWrite (r : Req) (o : SetupOps) : Shape.Statement (.baySetupWrite r o) := shape_of_wf rfl id
theorem Shape.baySetupRead (r : Req) : Shape.Statement (.baySetupRead r) := shape_of_wf rfl id
theorem Shape.bayRead (r : Req) : Shape.Statement (.bayRead r) := shape_of_wf rfl id
theorem Shape.sourceClaim (r : Req) (source : Byte) : Shape.Statement (.sourceClaim r source) := shape_of_wf rfl id
theorem Shape.sourceFree (r : Req) (source : Byte) : Shape.Statement (.sourceFree r source) := shape_of_wf rfl id
theorem Shape.setSpeed (r : Req) (source : Byte) (v k : Half) : Shape.Statement (.setSpeed r source v k) :=
  shape_of_wf rfl id
theorem Shape.setRpm (r : Req) (source : Byte) (rpm : Half) (p : Byte) : Shape.Statement (.setRpm r source rpm p) :=
  shape_of_wf rfl id
theorem Shape.setFrequency (r : Req) (source : Byte) (f : Full) : Shape.Statement (.setFrequency r source f) :=
  shape_of_wf rfl id
theorem Shape.setDuty (r : Req) (source : Byte) (d : Half) : Shape.Statement (.setDuty r source d) :=
  shape_of_wf rfl id
theorem Shape.setLevel (r : Req) (source : Byte) (mv : Full) : Shape.Statement (.setLevel r source mv) :=
  shape_of_wf rfl id
theorem Shape.sourceRead (r : Req) (source : Byte) : Shape.Statement (.sourceRead r source) := shape_of_wf rfl id
theorem Shape.routeClose (r : Req) (source pin : Byte) : Shape.Statement (.routeClose r source pin) :=
  shape_of_wf rfl id
theorem Shape.routeOpen (r : Req) (source pin : Byte) : Shape.Statement (.routeOpen r source pin) :=
  shape_of_wf rfl id
theorem Shape.frameWrite (r : Req) (index : Byte) (o : FrameOps) : Shape.Statement (.frameWrite r index o) :=
  shape_of_wf rfl id
theorem Shape.frameRead (r : Req) (index : Byte) : Shape.Statement (.frameRead r index) := shape_of_wf rfl id
theorem Shape.setPayload (r : Req) (index offset : Byte) (bytes : List Byte) : Shape.Statement (.setPayload r index offset bytes) :=
  shape_of_wf rfl fun h => (Bool.and_eq_true_iff.mp h).1
theorem Shape.send (r : Req) (index count : Byte) : Shape.Statement (.send r index count) := shape_of_wf rfl id
theorem Shape.netResume (r : Req) : Shape.Statement (.netResume r) := shape_of_wf rfl id
theorem Shape.netRead (r : Req) : Shape.Statement (.netRead r) := shape_of_wf rfl id
theorem Shape.expect (r : Req) (o : ExpectOps) : Shape.Statement (.expect r o) := shape_of_wf rfl id
theorem Shape.unexpect (r : Req) (ident : Half) : Shape.Statement (.unexpect r ident) := shape_of_wf rfl id
theorem Shape.responseRead (r : Req) (selector : Byte) (which : Half) : Shape.Statement (.responseRead r selector which) :=
  shape_of_wf rfl id
theorem Shape.checkResponse (r : Req) (selector : Byte) (which : Half) : Shape.Statement (.checkResponse r selector which) :=
  shape_of_wf rfl id
theorem Shape.monitorPop (r : Req) : Shape.Statement (.monitorPop r) := shape_of_wf rfl id
theorem Shape.meuClaim (r : Req) : Shape.Statement (.meuClaim r) := shape_of_wf rfl id
theorem Shape.meuRelease (r : Req) : Shape.Statement (.meuRelease r) := shape_of_wf rfl id
theorem Shape.measure (r : Req) (o : MeasureOps) : Shape.Statement (.measure r o) := shape_of_wf rfl id
theorem Shape.resultRead (r : Req) : Shape.Statement (.resultRead r) := shape_of_wf rfl id
theorem Shape.meuRead (r : Req) : Shape.Statement (.meuRead r) := shape_of_wf rfl id
theorem Shape.calWrite (r : Req) (range : Byte) (gain offset : Full) : Shape.Statement (.calWrite r range gain offset) :=
  shape_of_wf rfl id
theorem Shape.calRead (r : Req) (range : Byte) : Shape.Statement (.calRead r range) := shape_of_wf rfl id
theorem Shape.limitWrite (r : Req) (index : Byte) (o : LimitOps) : Shape.Statement (.limitWrite r index o) :=
  shape_of_wf rfl id
theorem Shape.limitRead (r : Req) (index : Byte) : Shape.Statement (.limitRead r index) := shape_of_wf rfl id
theorem Shape.noteStep (r : Req) (verdict : Byte) (value : Option Full) : Shape.Statement (.noteStep r verdict value) :=
  shape_of_wf rfl fun h => (Bool.and_eq_true_iff.mp h).1
theorem Shape.logPop (r : Req) : Shape.Statement (.logPop r) := shape_of_wf rfl id
theorem Shape.logSetup (r : Req) (threshold : Byte) : Shape.Statement (.logSetup r threshold) := shape_of_wf rfl id
theorem Shape.statsRead (r : Req) (first count clear : Byte) : Shape.Statement (.statsRead r first count clear) :=
  shape_of_wf rfl id
theorem Shape.setCursor (r : Req) (address : Half) : Shape.Statement (.setCursor r address) := shape_of_wf rfl id
theorem Shape.displayWrite (r : Req) (codes : List Byte) : Shape.Statement (.displayWrite r codes) :=
  shape_of_wf rfl fun h => (Bool.and_eq_true_iff.mp h).1
theorem Shape.displayRead (r : Req) (count : Byte) : Shape.Statement (.displayRead r count) := shape_of_wf rfl id
theorem Shape.attrSet (r : Req) (flag count : Byte) : Shape.Statement (.attrSet r flag count) := shape_of_wf rfl id
theorem Shape.attrClear (r : Req) (flag count : Byte) : Shape.Statement (.attrClear r flag count) :=
  shape_of_wf rfl id
theorem Shape.clearArea (r : Req) (count : Half) : Shape.Statement (.clearArea r count) := shape_of_wf rfl id
theorem Shape.setWindow (r : Req) (start : Half) : Shape.Statement (.setWindow r start) := shape_of_wf rfl id
theorem Shape.stationScreen (r : Req) (on : Byte) (start : Half) : Shape.Statement (.stationScreen r on start) :=
  shape_of_wf rfl id
theorem Shape.glyphLoad (r : Req) (code : Byte) (rows : B8) : Shape.Statement (.glyphLoad r code rows) :=
  shape_of_wf rfl id
theorem Shape.prompt (r : Req) (o : PromptOps) : Shape.Statement (.prompt r o) := shape_of_wf rfl id
theorem Shape.promptCancel (r : Req) (promptId : Option Byte) : Shape.Statement (.promptCancel r promptId) :=
  shape_of_wf rfl fun h => (Bool.and_eq_true_iff.mp h).1
theorem Shape.answerRead (r : Req) : Shape.Statement (.answerRead r) := shape_of_wf rfl id
theorem Shape.promptRead (r : Req) : Shape.Statement (.promptRead r) := shape_of_wf rfl id
theorem Shape.calSave (r : Req) : Shape.Statement (.calSave r) := shape_of_wf rfl id
theorem Shape.rackReset (r : Req) : Shape.Statement (.rackReset r) := shape_of_wf rfl id
theorem Shape.unitPresentRising (bay : Bay) : Shape.Statement (.unitPresentRising bay) := shape_of_none rfl
theorem Shape.unitPresentFalling (bay : Bay) : Shape.Statement (.unitPresentFalling bay) := shape_of_none rfl
theorem Shape.clampClosedRising (bay : Bay) : Shape.Statement (.clampClosedRising bay) := shape_of_none rfl
theorem Shape.clampClosedFalling (bay : Bay) : Shape.Statement (.clampClosedFalling bay) := shape_of_none rfl
theorem Shape.contactMadeRising (bay : Bay) : Shape.Statement (.contactMadeRising bay) := shape_of_none rfl
theorem Shape.contactMadeFalling (bay : Bay) : Shape.Statement (.contactMadeFalling bay) := shape_of_none rfl
theorem Shape.interlockOkFalling (bay : Bay) : Shape.Statement (.interlockOkFalling bay) := shape_of_none rfl
theorem Shape.emergencyActive (first : Bay) : Shape.Statement (.emergencyActive first) := shape_of_none rfl
theorem Shape.emergencyInactive : Shape.Statement .emergencyInactive := shape_of_none rfl
theorem Shape.fixtureTimerExpiry (bay : Bay) : Shape.Statement (.fixtureTimerExpiry bay) := shape_of_none rfl
theorem Shape.routeTransitionComplete (source : Fin 8) (bay : Bay) (pin : Fin 48) : Shape.Statement (.routeTransitionComplete source bay pin) :=
  shape_of_none rfl
theorem Shape.pulsePeriodEnd (source : Fin 8) : Shape.Statement (.pulsePeriodEnd source) := shape_of_none rfl
theorem Shape.frameDue (bay : Bay) (index : Byte) : Shape.Statement (.frameDue bay index) := shape_of_none rfl
theorem Shape.tokenAccrual (bay : Bay) : Shape.Statement (.tokenAccrual bay) := shape_of_none rfl
theorem Shape.attemptRestart (bay : Bay) : Shape.Statement (.attemptRestart bay) := shape_of_none rfl
theorem Shape.attemptOutcome (bay : Bay) (outcome : TxOutcome) : Shape.Statement (.attemptOutcome bay outcome) :=
  shape_of_none rfl
theorem Shape.frameReceived (bay : Bay) (frame : RxFrame) : Shape.Statement (.frameReceived bay frame) :=
  shape_of_none rfl
theorem Shape.agingPass : Shape.Statement .agingPass := shape_of_none rfl
theorem Shape.holdTimerExpiry : Shape.Statement .holdTimerExpiry := shape_of_none rfl
theorem Shape.senseConnectComplete : Shape.Statement .senseConnectComplete := shape_of_none rfl
theorem Shape.senseDisconnectComplete : Shape.Statement .senseDisconnectComplete := shape_of_none rfl
theorem Shape.settleEnd : Shape.Statement .settleEnd := shape_of_none rfl
theorem Shape.sampleTaken (code : Half) : Shape.Statement (.sampleTaken code) := shape_of_none rfl
theorem Shape.blinkPhaseChange : Shape.Statement .blinkPhaseChange := shape_of_none rfl
theorem Shape.clearBlock (master : Master) : Shape.Statement (.clearBlock master) := shape_of_none rfl
theorem Shape.keyPress (bay : Bay) (key : Key) : Shape.Statement (.keyPress bay key) := shape_of_none rfl
theorem Shape.promptTimerExpiry (bay : Bay) : Shape.Statement (.promptTimerExpiry bay) := shape_of_none rfl
theorem Shape.abortKey (bay : Bay) : Shape.Statement (.abortKey bay) := shape_of_none rfl
theorem Shape.interlockOkRising (bay : Bay) : Shape.Statement (.interlockOkRising bay) := shape_of_none rfl
theorem Shape.supplyLoss : Shape.Statement .supplyLoss := shape_of_none rfl

end Sys2Proof.Laws
end

