-- ==== Sys2Proof/Laws/Prompts.lean ====
section
/-! SUPPORT. The Prompt Unit: what promotion, a hand-over, an answer and a teardown leave. -/

namespace Sys2Proof.Machine

/-- A prompt event changes the log and its reservations, the Prompt Units, the windows and the attention sets alone. -/
def PromptFrame (s t : State) : Prop :=
  t = { s with vlg := t.vlg, prus := t.prus, windows := t.windows, attn := t.attn, choices := t.choices }

/-- A prompt event of one bay leaves the other bay's prompts and window alone. -/
def OtherKept (bay : Bay) (s t : State) : Prop :=
  t.prus.get (otherBay bay) = s.prus.get (otherBay bay) ∧ t.windows.get (otherBay bay) = s.windows.get (otherBay bay)

theorem PromptFrame.refl (s : State) : PromptFrame s s := rfl

theorem PromptFrame.trans {s t u : State} (h : PromptFrame s t) (h' : PromptFrame t u) : PromptFrame s u := by
  unfold PromptFrame at *; rw [h', h]

theorem OtherKept.refl (bay : Bay) (s : State) : OtherKept bay s s := ⟨rfl, rfl⟩

theorem OtherKept.trans {bay : Bay} {s t u : State} (h : OtherKept bay s t) (h' : OtherKept bay t u) :
    OtherKept bay s u := ⟨h'.1.trans h.1, h'.2.trans h.2⟩

variable (s : State)

theorem promptFrame_setPru (bay : Bay) (x : Pru) : PromptFrame s (s.setPru bay x) := rfl
theorem promptFrame_setWindow (bay : Bay) (x : Window) : PromptFrame s (s.setWindow bay x) := rfl
theorem promptFrame_setVlg (x : Vlg) : PromptFrame s (s.setVlg x) := rfl
theorem promptFrame_raise (m : Master) (e : Edge) : PromptFrame s (s.raise m e) := rfl
theorem promptFrame_release (h : Holder) : PromptFrame s (s.release h) := rfl
theorem promptFrame_activate (bay : Bay) (p : Prompt) (l : List Prompt) : PromptFrame s (s.activate bay p l) := rfl
theorem promptFrame_answerPrompt (bay : Bay) (p : Prompt) (x : Reply) (ms : Nat) (i : Option Nat) :
    PromptFrame s (s.answerPrompt bay p x ms i) := rfl
theorem promptFrame_endPromptWindow (bay : Bay) : PromptFrame s (s.endPromptWindow bay) := rfl

theorem otherKept_setPru (bay : Bay) (x : Pru) : OtherKept bay s (s.setPru bay x) := ⟨by simp, rfl⟩
theorem otherKept_setWindow (bay : Bay) (x : Window) : OtherKept bay s (s.setWindow bay x) := ⟨rfl, by simp⟩
theorem otherKept_activate (bay : Bay) (p : Prompt) (l : List Prompt) : OtherKept bay s (s.activate bay p l) :=
  (otherKept_setPru s bay _).trans (otherKept_setWindow _ bay _)
theorem otherKept_answerPrompt (bay : Bay) (p : Prompt) (x : Reply) (ms : Nat) (i : Option Nat) :
    OtherKept bay s (s.answerPrompt bay p x ms i) := ⟨by simp [State.answerPrompt], rfl⟩

theorem promptFrame_promote (bay : Bay) (l : List Prompt) : PromptFrame s (promote bay l s) := by
  induction l generalizing s with
  | nil => rfl
  | cons p l ih =>
    unfold promote
    split
    · rfl
    · split
      · exact (promptFrame_answerPrompt s _ _ _ _ _).trans (ih _)
      · split <;> rfl

theorem otherKept_promote (bay : Bay) (l : List Prompt) : OtherKept bay s (promote bay l s) := by
  induction l generalizing s with
  | nil => exact otherKept_setPru s bay _
  | cons p l ih =>
    unfold promote
    split
    · exact otherKept_activate s _ _ _
    · split
      · exact (otherKept_answerPrompt s _ _ _ _ _).trans (ih _)
      · split
        · exact otherKept_activate _ _ _ _
        · exact otherKept_setPru s bay _

/-- A prompt that is ended CANCELLED with elapsed time 0 (R180, R184). -/
theorem answerPrompt_cancelled (bay : Bay) (p : Prompt) :
    let t := s.answerPrompt bay p .cancelled 0 none
    t.prus.get bay = { s.prus.get bay with slot := some (cancelledSlot p 0 (s.prus.get bay).slot) } ∧
    t.windows = s.windows ∧ t.vlg = s.vlg ∧ t.rackTime = s.rackTime ∧ t.choices = s.choices ∧
    Raised (fun m e => m = p.poster ∧ e = ⟨.prompt, some bay, .none⟩) s t := by
  refine ⟨?_, rfl, rfl, rfl, rfl, (raised_raise p.poster _ s).of_attn rfl rfl⟩
  have hm : missedOn (s.prus.get bay).slot = match (s.prus.get bay).slot with
    | none => 0
    | some y => bumpTo 255 y.missed := by cases (s.prus.get bay).slot <;> rfl
  simp [State.answerPrompt, cancelledSlot, hm]
  all_goals (cases (s.prus.get bay).slot <;> rfl)

/-- Where the head of the list is not refused for good, nothing is. -/
theorem refusedFirst_nil {bay : Bay} {v : Vlg} {p : Prompt} {l : List Prompt}
    (h : p.kind ≠ .visual ∨ v.admits bay = true) : refusedFirst bay v (p :: l) = [] := by
  unfold refusedFirst
  rcases h with h | h
  · simp [h]
  · simp [show v.stepsWritten.get bay + v.stepsReserved bay < 65535 by simpa [Vlg.admits] using h]

/-- A VISUAL head that step admission refuses is passed over, and so is what follows it as far as it would be alone. -/
theorem refusedFirst_cons {bay : Bay} {v : Vlg} {p : Prompt} {l : List Prompt}
    (hk : p.kind = .visual) (ha : v.admits bay = false) :
    refusedFirst bay v (p :: l) = p :: refusedFirst bay v l := by
  have h : ¬ v.stepsWritten.get bay + v.stepsReserved bay < 65535 := by simpa [Vlg.admits] using ha
  simp [refusedFirst, h, hk]

/-- Promotion fills the front place (R178 to R180). -/
theorem promote_spec (bay : Bay) (l : List Prompt) : Promoted bay l s (promote bay l s) := by
  induction l generalizing s with
  | nil =>
    have hr : refusedFirst bay s.vlg [] = [] := by simp [refusedFirst]
    refine ⟨rfl, (otherKept_promote s bay []).1, rfl, ?_, ?_, ?_, ?_⟩ <;> simp [hr, promote, Raised]
  | cons p l ih =>
    have hpre := promptFrame_promote s bay (p :: l)
    have ho := otherKept_promote s bay (p :: l)
    by_cases hk : p.kind = .visual
    · rcases ha : s.vlg.admits bay with _ | _
      · obtain ⟨h1, h2, h3, h4, h5, h6⟩ := answerPrompt_cancelled s bay p
        have hp : promote bay (p :: l) s = promote bay l (s.answerPrompt bay p .cancelled 0 none) := by
          simp [promote, hk, ha]
        have hi := ih (s.answerPrompt bay p .cancelled 0 none)
        rw [← hp] at hi
        unfold Promoted at hi ⊢
        dsimp only at hi h1 h2 h3 h4 h5 h6 ⊢
        rw [h1, h2, h3, h4] at hi
        obtain ⟨k1, k2, k3, k4, k5, k6⟩ := hi
        rw [refusedFirst_cons hk ha]
        refine ⟨?_, ho.1, ho.2, k4, ?_, k6⟩
        · rw [k1]; rfl
        · intro m
          refine ⟨(k5 m).1.trans (h6 m).1, fun e => ?_⟩
          rw [(k5 m).2, (h6 m).2]
          simp only [List.mem_cons, exists_eq_or_imp]
          tauto
      · have hr := refusedFirst_nil (l := l) (p := p) (.inr ha)
        by_cases hm : s.vlg.room = true
        · have hm' : s.vlg.log.length + s.vlg.reservations.length < 128 := of_decide_eq_true hm
          have hp : promote bay (p :: l) s = (s.setVlg (s.vlg.reserve (.prompt bay))).activate bay p l := by
            simp [promote, hk, ha, hm]
          rw [hp] at ho ⊢
          refine ⟨rfl, ho.1, ho.2, ?_, ?_, ?_, ?_⟩ <;> simp only [hr]
          · simp [State.activate]
          · simp [Raised, State.activate]
          · simp
          · rintro q r ⟨⟩
            refine ⟨fun h => absurd hk h, fun _ => ⟨fun _ => ?_, fun h => absurd hm' (by omega)⟩⟩
            simp [State.activate, Window.activate, Vlg.reserve, after]
        · have hm' : ¬ s.vlg.log.length + s.vlg.reservations.length < 128 := fun h => hm (decide_eq_true h)
          have hp : promote bay (p :: l) s = s.setPru bay { s.prus.get bay with front := .pending p, waiting := l } := by
            simp [promote, hk, ha, hm]
          rw [hp] at ho ⊢
          refine ⟨rfl, ho.1, ho.2, ?_, ?_, ?_, ?_⟩ <;> simp only [hr]
          · simp
          · simp [Raised]
          · simp
          · rintro q r ⟨⟩
            refine ⟨fun h => absurd hk h, fun _ => ⟨fun h => absurd h hm', fun _ => ?_⟩⟩
            simp
    · have hr := refusedFirst_nil (l := l) (v := s.vlg) (bay := bay) (.inl hk)
      have hp : promote bay (p :: l) s = s.activate bay p l := by simp [promote, hk]
      rw [hp] at ho ⊢
      refine ⟨rfl, ho.1, ho.2, ?_, ?_, ?_, ?_⟩ <;> simp only [hr]
      · simp [State.activate]
      · simp [Raised, State.activate]
      · simp
      · rintro q r ⟨⟩
        refine ⟨fun _ => ?_, fun h => absurd h hk⟩
        simp [State.activate, Window.activate, after]

/-- A freed place reaches a bay (R145, R180). -/
theorem askAgain_spec (bay : Bay) : AsksAgain bay s (askAgain bay s) := by
  refine ⟨fun p h => ?_, fun h => ?_⟩
  · simp only [askAgain, h]; exact promote_spec s bay _
  · unfold askAgain; split
    · rename_i p hp; exact absurd hp (h p)
    · rfl

/-! ### The hand-over of a freed place (R145, R180) -/

theorem promptFrame_askAgain (bay : Bay) : PromptFrame s (askAgain bay s) := by
  unfold askAgain; split
  · exact promptFrame_promote s _ _
  · rfl

theorem otherKept_askAgain (bay : Bay) : OtherKept bay s (askAgain bay s) := by
  unfold askAgain; split
  · exact otherKept_promote s _ _
  · exact .refl _ _

/-- A front that is not PENDING is left alone. -/
theorem askAgain_of_not_pending {bay : Bay} {s : State} (h : ∀ p, (s.prus.get bay).front ≠ .pending p) :
    askAgain bay s = s := by
  unfold askAgain; split
  · rename_i p hp; exact absurd hp (h p)
  · rfl

theorem frontPending_iff {bay : Bay} {s : State} :
    s.frontPending bay = true ↔ ∃ p, (s.prus.get bay).front = .pending p := by
  unfold State.frontPending; split <;> simp_all

theorem promptFrame_handOver : PromptFrame s (handOver s) := by
  unfold handOver
  dsimp only
  have h : PromptFrame s { s with choices := s.choices + 1 } := rfl
  split
  · split
    · exact (h.trans (promptFrame_askAgain _ _)).trans (promptFrame_askAgain _ _)
    · exact (h.trans (promptFrame_askAgain _ _)).trans (promptFrame_askAgain _ _)
  · exact (promptFrame_askAgain s _).trans (promptFrame_askAgain _ _)

/-- A freed place is handed to both bays (R145). -/
theorem handOver_spec : HandedOver s (handOver s) := by
  refine ⟨fun h => ?_, fun ⟨bay, h⟩ => ?_⟩
  · have hb : (s.frontPending .a && s.frontPending .b) = true := by simp [frontPending_iff.2 (h .a), frontPending_iff.2 (h .b)]
    unfold handOver
    simp only [hb, if_true]
    split
    · exact ⟨.a, _, askAgain_spec _ _, askAgain_spec _ _⟩
    · exact ⟨.b, _, askAgain_spec _ _, askAgain_spec _ _⟩
  · have hb : (s.frontPending .a && s.frontPending .b) = false := by
      have : s.frontPending bay = false := by
        rw [← Bool.not_eq_true, frontPending_iff]; rintro ⟨p, hp⟩; exact h p hp
      cases bay <;> simp_all
    unfold handOver
    simp only [hb, Bool.false_eq_true, if_false]
    exact ⟨_, askAgain_spec _ _, askAgain_spec _ _⟩

/-- With no front PENDING a freed place stays free. -/
theorem handOver_of_not_pending {s : State} (h : ∀ bay p, (s.prus.get bay).front ≠ .pending p) : handOver s = s := by
  have hp : s.frontPending .a = false := by
    rw [← Bool.not_eq_true, frontPending_iff]; rintro ⟨p, hp⟩; exact h _ p hp
  unfold handOver
  simp only [hp, Bool.false_and, Bool.false_eq_true, if_false]
  rw [askAgain_of_not_pending (h .a), askAgain_of_not_pending (h .b)]

/-- With one bay's front not PENDING a freed place is offered to the other alone. -/
theorem handOver_of_one {bay : Bay} {s : State} (h : ∀ p, (s.prus.get (otherBay bay)).front ≠ .pending p) :
    handOver s = askAgain bay s := by
  have hb : (s.frontPending .a && s.frontPending .b) = false := by
    have : s.frontPending (otherBay bay) = false := by
      rw [← Bool.not_eq_true, frontPending_iff]; rintro ⟨p, hp⟩; exact h p hp
    cases bay <;> simp_all [otherBay]
  unfold handOver
  simp only [hb, Bool.false_eq_true, if_false]
  cases bay
  · rw [askAgain_of_not_pending (bay := .b)]
    rw [show Bay.b = otherBay .a from rfl, (otherKept_askAgain s .a).1]
    exact h
  · rw [askAgain_of_not_pending (bay := .a) (s := s) h]

/-- A bay whose front is not PENDING keeps its prompts and window through a hand-over. -/
theorem handOver_kept {bay : Bay} {s : State} (h : ∀ p, (s.prus.get bay).front ≠ .pending p) :
    (handOver s).prus.get bay = s.prus.get bay ∧ (handOver s).windows.get bay = s.windows.get bay := by
  have hh : handOver s = askAgain (otherBay bay) s := handOver_of_one (by simpa using h)
  have := otherKept_askAgain s (otherBay bay)
  rw [hh]
  simpa [OtherKept] using this

/-! ### Answers and teardown (R182, R185, R186) -/

theorem promptFrame_cancelActive (bay : Bay) (p : Prompt) (t : Time) : PromptFrame s (cancelActive bay p t s) := by
  unfold cancelActive; split <;> rfl

theorem otherKept_cancelActive (bay : Bay) (p : Prompt) (t : Time) : OtherKept bay s (cancelActive bay p t s) := by
  unfold cancelActive State.endPromptWindow State.answerPrompt State.release
  split <;> exact ⟨by simp, by simp⟩

/-- A cancelled prompt: the slot, the place released, PROMPT to its poster (R185). -/
theorem cancelActive_spec (bay : Bay) (p : Prompt) (since : Time) :
    let t := cancelActive bay p since s
    (t.prus.get bay) = { s.prus.get bay with
      slot := some (cancelledSlot p (s.rackTime - since).toNat (s.prus.get bay).slot) } ∧
    t.vlg = (if p.kind = .visual then s.vlg.unreserve (.prompt bay) else s.vlg) ∧
    t.windows.get bay = { s.windows.get bay with promptBlink := false } ∧
    Raised (fun m e => m = p.poster ∧ e = ⟨.prompt, some bay, .none⟩) s t ∧ t.choices = s.choices := by
  have hm : ∀ x : Option AnswerSlot, missedOn x = match x with
      | none => 0
      | some y => bumpTo 255 y.missed := by intro x; cases x <;> rfl
  unfold cancelActive
  dsimp only
  by_cases h : p.kind = .visual
  · simp only [h, if_true]
    refine ⟨?_, rfl, by simp [State.endPromptWindow, State.answerPrompt, State.release],
      (raised_raise p.poster _ s).of_attn rfl rfl, rfl⟩
    simp [State.endPromptWindow, State.answerPrompt, State.release, cancelledSlot, hm, elapsed, h]
    all_goals (cases (s.prus.get bay).slot <;> rfl)
  · simp only [h, if_false]
    refine ⟨?_, rfl, by simp [State.endPromptWindow, State.answerPrompt],
      (raised_raise p.poster _ s).of_attn rfl rfl, rfl⟩
    simp [State.endPromptWindow, State.answerPrompt, cancelledSlot, hm, elapsed]
    all_goals (cases (s.prus.get bay).slot <;> rfl)

theorem promptFrame_promptTeardown (bay : Bay) : PromptFrame s (promptTeardown bay s) := by
  unfold promptTeardown
  split
  · rfl
  · rfl
  · rename_i p t e _
    have h := (promptFrame_cancelActive s bay p t).trans (promptFrame_setPru _ bay
      { (cancelActive bay p t s).prus.get bay with front := .empty, waiting := [] })
    dsimp only
    split
    · exact h.trans (promptFrame_handOver _)
    · exact h

/-- A bay event ends every prompt of the bay (R186). -/
theorem promptTeardown_spec (bay : Bay) :
    let u := s.prus.get bay
    let t := promptTeardown bay s
    (t.prus.get bay).front = .empty ∧ (t.prus.get bay).waiting = [] ∧
    (u.front = .empty → (t.prus.get bay).slot = u.slot ∧ t.windows.get bay = s.windows.get bay) ∧
    (∀ p, u.front = .pending p → (t.prus.get bay).slot = some (cancelledSlot p 0 u.slot) ∧
      t.windows.get bay = s.windows.get bay) ∧
    (∀ p since e, u.front = .active p since e →
      (t.prus.get bay).slot = some (cancelledSlot p (s.rackTime - since).toNat u.slot) ∧
      t.windows.get bay = { s.windows.get bay with promptBlink := false }) ∧
    ((∀ p, (s.prus.get (otherBay bay)).front ≠ .pending p) → OtherKept bay s t) := by
  unfold promptTeardown
  split
  · rename_i hf
    refine ⟨by simp [hf], by simp, fun _ => ⟨by simp, rfl⟩, by simp [hf], by simp [hf], fun _ => otherKept_setPru s bay _⟩
  · rename_i p hf
    have hm : missedOn (s.prus.get bay).slot = match (s.prus.get bay).slot with
      | none => 0
      | some y => bumpTo 255 y.missed := by cases (s.prus.get bay).slot <;> rfl
    refine ⟨by simp, by simp, by simp [hf], ?_, by simp [hf], fun _ =>
      (otherKept_answerPrompt s _ _ _ _ _).trans (otherKept_setPru _ _ _)⟩
    intro q hq
    rw [hf] at hq
    cases hq
    refine ⟨?_, rfl⟩
    simp [State.answerPrompt, cancelledSlot, hm]
    all_goals (cases (s.prus.get bay).slot <;> rfl)
  · rename_i p since e hf
    obtain ⟨h1, h2, h3, h4, h5⟩ := cancelActive_spec s bay p since
    have hk := otherKept_cancelActive s bay p since
    set c := cancelActive bay p since s with hc
    dsimp only
    set d := c.setPru bay { c.prus.get bay with front := .empty, waiting := [] } with hd
    have hd1 : d.prus.get bay = { c.prus.get bay with front := .empty, waiting := [] } := by simp [hd]
    have hkd : OtherKept bay s d := hk.trans (otherKept_setPru c bay _)
    have key : (if p.kind = .visual then handOver d else d).prus.get bay = d.prus.get bay ∧
        (if p.kind = .visual then handOver d else d).windows.get bay = d.windows.get bay := by
      split
      · exact handOver_kept (by rw [hd1]; simp)
      · exact ⟨rfl, rfl⟩
    refine ⟨by rw [key.1, hd1], by rw [key.1, hd1], by simp [hf], by simp [hf], ?_, fun ho => ?_⟩
    · intro q t x hq
      rw [hf] at hq
      cases hq
      refine ⟨by rw [key.1, hd1, h1], ?_⟩
      rw [key.2]
      exact h3
    · refine hkd.trans ?_
      split
      · rw [handOver_of_not_pending]
        · exact .refl _ _
        · intro y q
          by_cases hy : y = bay
          · subst hy; rw [hd1]; simp
          · rw [eq_otherBay hy, hkd.1]; exact ho q
      · exact .refl _ _

end Sys2Proof.Machine
end

