-- ==== Sys2Proof/Laws/Sources.lean ====
section
/-! SUPPORT. Sources and routes: what `repark`, `freeSource`, `endClaims` and `openRoutes` leave, and a bay's movement
with them. -/

namespace Sys2Proof.Machine

/-! ### Records -/

/-- A source that is FREE stays so. -/
theorem repark_default (s : State) (i : Nat) : ({} : Source).repark (s.mustPark i {}) = {} := rfl

theorem source_setSource {s : State} (hw : Table.wf {} s.sources) (i j : Fin 8) (x : Source) :
    (s.setSource i x).source j = if j = i then x else s.source j := by
  simp only [State.source, State.setSource_sources]
  rw [Table.read_write hw]
  simp [Fin.ext_iff]

theorem source_congr {s t : State} (h : t.sources = s.sources) (i : Fin 8) : t.source i = s.source i := by
  simp [State.source, h]

theorem routesOf_congr {s t : State} (h : t.routes = s.routes) (i : Fin 8) : t.routesOf i = s.routesOf i := by
  simp [State.routesOf, h]

theorem wf_setSource {s : State} (hw : Table.wf {} s.sources) (i : Fin 8) (x : Source) :
    Table.wf {} (s.setSource i x).sources := Table.wf_write hw _ _

theorem wf_repark {s : State} (hw : Table.wf {} s.sources) : Table.wf {} s.repark.sources := by
  rw [State.repark_sources]; exact Table.wf_mapAll hw _

/-! ### Parked (R34, R35) -/

theorem RouteState.moving_iff {x : RouteState} : x.moving = true ↔ x ≠ .closed := by cases x <;> simp [RouteState.moving]

theorem BayState.stimulates_iff {x : BayState} :
    x.stimulates = true ↔ x = .powering ∨ x = .powered ∨ x = .testing := by cases x <;> simp [BayState.stimulates]

/-- `mustPark` is the law of R34. -/
theorem mustPark_iff {s : State} {i : Fin 8} {x : Source} : s.mustPark i.val x = true ↔ ParkedBy s i x := by
  unfold State.mustPark ParkedBy
  rcases ho : x.owner with _ | bay
  · simp
  · have : (s.bayState bay).stimulates = false ↔
        s.bayState bay ≠ .powering ∧ s.bayState bay ≠ .powered ∧ s.bayState bay ≠ .testing := by
      rw [← Bool.not_eq_true, BayState.stimulates_iff]; tauto
    simp [this, RouteState.moving_iff, Fin.ext_iff]

/-- Evaluating *parked* again, source by source. -/
theorem source_repark {s : State} (hw : Table.wf {} s.sources) (i : Fin 8) :
    s.repark.source i = (s.source i).repark (s.mustPark i.val (s.source i)) := by
  simp only [State.source, State.repark_sources]
  rw [Table.read_mapAll hw]
  exact repark_default s i.val

theorem parkedBy_congr {s t : State} (hb : ∀ bay, t.bayState bay = s.bayState bay) (hr : t.routes = s.routes)
    (i : Fin 8) (x : Source) : ParkedBy t i x ↔ ParkedBy s i x := by simp [ParkedBy, hb, hr]

/-- `repark` does what R34 and R35 say. -/
theorem reparked_repark {s : State} (hw : Table.wf {} s.sources) : Reparked s s.repark := by
  intro i
  have hc : ∀ x, ParkedBy s.repark i x ↔ ParkedBy s i x := fun x => parkedBy_congr (fun _ => rfl) rfl i x
  simp only [ReparkedAt, hc, source_repark hw]
  refine ⟨?_, ?_, ?_⟩
  · intro h; simp [mustPark_iff.2 h, Source.repark]
  · intro h hp
    have : s.mustPark i.val (s.source i) = false := by simpa [← mustPark_iff] using h
    simp [this, Source.repark, hp]
  · intro h hp
    have : s.mustPark i.val (s.source i) = false := by simpa [← mustPark_iff] using h
    simp [this, Source.repark, hp, Source.programmed]

/-- Only the sources, the routes and the bay states matter. -/
theorem Reparked.of_eq {s t s' t' : State} (h : Reparked s t) (hs : s'.sources = s.sources)
    (ht : t'.sources = t.sources) (hr : t'.routes = t.routes) (hb : ∀ bay, t'.bayState bay = t.bayState bay) :
    Reparked s' t' := by
  intro i
  simp only [ReparkedAt, source_congr hs, source_congr ht, parkedBy_congr hb hr]
  exact h i

/-- Two evaluations one after the other are the second alone where they agree on what must be parked. -/
theorem Reparked.trans {s t u : State} (h : Reparked s t) (h' : Reparked t u)
    (hp : ∀ i x, ParkedBy t i x ↔ ParkedBy u i x) : Reparked s u := by
  intro i
  have ho : ∀ x y : Source, x.owner = y.owner → (ParkedBy u i x ↔ ParkedBy u i y) := by
    intro x y hxy; simp [ParkedBy, hxy]
  obtain ⟨h1, h2, h3⟩ := h i
  obtain ⟨k1, k2, k3⟩ := h' i
  simp only [hp] at h1 h2 h3
  refine ⟨?_, ?_, ?_⟩
  · intro hu
    rw [h1 hu] at k1
    rw [k1 ((ho _ _ rfl).1 hu)]
  · intro hu hx
    rw [h2 hu hx] at k2
    exact k2 hu hx
  · intro hu hx
    rw [h3 hu hx] at k2
    exact k2 (fun hh => hu ((ho _ _ rfl).1 hh)) rfl

/-- Evaluation keeps owners and settings. -/
theorem repark_source_owner {s : State} (hw : Table.wf {} s.sources) (i : Fin 8) :
    (s.repark.source i).owner = (s.source i).owner ∧ (s.repark.source i).freeing = (s.source i).freeing := by
  rw [source_repark hw]; unfold Source.repark; split <;> [exact ⟨rfl, rfl⟩; (split <;> exact ⟨rfl, rfl⟩)]

/-! ### Movement -/

/-- A bay's state after its controller moved. -/
theorem bayState_setBay (s : State) (bay y : Bay) (x : BayCtl) :
    (s.setBay bay x).bayState y = if y = bay then x.ctx.state else s.bayState y := by
  simp only [State.bayState, State.setBay_bays, Per.get_set]; split <;> rfl

theorem bayState_moveTo (s : State) (q : Option Master) (bay y : Bay) (st : BayState) (p : Option Phase) :
    (s.moveTo q bay st p).bayState y = if y = bay then st else s.bayState y := by
  simp only [State.bayState, State.moveTo_bays, Per.get_set]; split <;> rfl

theorem moveTo_sources (s : State) (q : Option Master) (bay : Bay) (st : BayState) (p : Option Phase) :
    (s.moveTo q bay st p).sources = (s.setBay bay ((s.bays.get bay).moveTo st p)).repark.sources := by
  unfold State.moveTo; dsimp only; split <;> simp

theorem wf_moveTo {s : State} (hw : Table.wf {} s.sources) (q : Option Master) (bay : Bay) (st : BayState)
    (p : Option Phase) : Table.wf {} (s.moveTo q bay st p).sources := by
  rw [moveTo_sources]; exact wf_repark hw

/-- A movement evaluates *parked* again (R34). -/
theorem reparked_moveTo {s : State} (hw : Table.wf {} s.sources) (q : Option Master) (bay : Bay) (st : BayState)
    (p : Option Phase) : Reparked s (s.moveTo q bay st p) := by
  refine (reparked_repark (s := s.setBay bay ((s.bays.get bay).moveTo st p)) hw).of_eq rfl (moveTo_sources s q bay st p)
    (by simp) fun y => ?_
  rw [bayState_moveTo]
  show _ = (s.setBay bay _).bayState y
  rw [bayState_setBay]; rfl

/-- A movement to another state raises BAY_STATE (R8); one within a state raises nothing. -/
theorem raised_moveTo (s : State) (q : Option Master) (bay : Bay) (st : BayState) (p : Option Phase) :
    Raised (fun m e => s.bayState bay ≠ st ∧ BayStateTold q bay m e) s (s.moveTo q bay st p) := by
  unfold State.moveTo
  dsimp only
  split
  · rename_i h
    exact (raised_of_attn_eq (by simp)).congr fun m e => by simp [h]
  · rename_i h
    exact ((raised_bayState q bay _).of_attn (by simp) rfl).congr fun m e => by simp [h]

theorem raiseBay_eq (s : State) (c : EdgeCause) (q : Option Master) (bay : Bay) :
    s.raiseBay c q bay = { s with attn := (s.raiseBay c q bay).attn } := by
  unfold State.raiseBay; dsimp only; split <;> split <;> rfl

theorem moveTo_eq (s : State) (q : Option Master) (bay : Bay) (st : BayState) (p : Option Phase) :
    s.moveTo q bay st p = { s with
      bays := s.bays.set bay ((s.bays.get bay).moveTo st p), sources := (s.moveTo q bay st p).sources
      attn := (s.moveTo q bay st p).attn } := by
  unfold State.moveTo
  dsimp only
  split
  · rfl
  · rw [raiseBay_eq]; rfl

/-- A movement to another state, whole. -/
theorem bayMove_moveTo {s : State} (hw : Table.wf {} s.sources) (q : Option Master) {bay : Bay} {st : BayState}
    (p : Option Phase) (h : s.bayState bay ≠ st) :
    BayMove q bay ((s.bays.get bay).moveTo st p) s (s.moveTo q bay st p) := by
  refine ⟨?_, reparked_moveTo hw q bay st p, (raised_moveTo s q bay st p).congr fun m e => by simp [h]⟩
  exact moveTo_eq s q bay st p

theorem parkedBy_of_stimulates {s t : State} (hb : ∀ bay, (t.bayState bay).stimulates = (s.bayState bay).stimulates)
    (hr : t.routes = s.routes) (i : Fin 8) (x : Source) : ParkedBy t i x ↔ ParkedBy s i x := by
  rw [← mustPark_iff, ← mustPark_iff]; simp [State.mustPark, hb, hr]

/-- Two movements of a bay one after the other, between which no source is parked or unparked for good. -/
theorem BayMove.trans {q : Option Master} {bay : Bay} {x y : BayCtl} {s t u : State} (h : BayMove q bay x s t)
    (h' : BayMove q bay y t u) (hs : y.ctx.state.stimulates = x.ctx.state.stimulates) : BayMove q bay y s u := by
  obtain ⟨e, h2, h3⟩ := h
  obtain ⟨e', h2', h3'⟩ := h'
  refine ⟨?_, h2.trans h2' fun i z => ?_, (h3.trans h3').congr fun m f => or_self_iff⟩
  · rw [e', e]; simp
  · have ht : t.bays = s.bays.set bay x := by rw [e]
    have hu : u.bays = t.bays.set bay y := by rw [e']
    have hr : u.routes = t.routes := by rw [e']
    refine (parkedBy_of_stimulates (fun w => ?_) hr i z).symm
    simp only [State.bayState, hu, ht, Per.get_set]
    split
    · exact hs
    · rfl

/-- The fixture timer starts after a movement. -/
theorem BayMove.startTimer {q : Option Master} {bay : Bay} {x : BayCtl} {s t : State} (h : BayMove q bay x s t)
    (p : TimerPurpose) (ms : Nat) :
    BayMove q bay { x with timer := some ⟨s.rackTime + BitVec.ofNat 32 ms, p⟩ } s (t.startTimer bay p ms) := by
  obtain ⟨e, h2, h3⟩ := h
  have ht : t.bays = s.bays.set bay x := by rw [e]
  have hr : t.rackTime = s.rackTime := by rw [e]
  refine ⟨?_, ?_, ?_⟩
  · rw [State.startTimer, State.setBay, ht, hr, e]; simp [after]
  · refine h2.of_eq rfl rfl rfl fun w => ?_
    simp only [State.bayState, State.startTimer_bays, ht, Per.get_set]
    split
    · simp
    · rfl
  · exact h3.of_attn rfl rfl

/-! ### Routes -/

/-- The relays that `openRoutes` commands. -/
theorem Route.command_eq (now : Time) (r : Route) :
    r.command now = if ∀ e, r.state ≠ .opening e then { r with state := .opening (now + 3) } else r := by
  obtain ⟨i, bay, pin, st⟩ := r
  cases st <;> simp [Route.command, RouteState.makes, after]

theorem routesOpened_openBayRoutes (s : State) (bay : Bay) : RoutesOpened bay s (s.openBayRoutes bay) := by
  simp only [RoutesOpened, State.openBayRoutes, State.openRoutes_routes]
  refine List.map_congr_left fun r _ => ?_
  by_cases h : r.bay = bay
  · simp only [h, decide_true, if_true, true_and, Route.command_eq]
  · simp [h]

theorem routesOf_openRoutes (s : State) (p : Route → Bool) (i : Fin 8) :
    ((s.openRoutes p).routesOf i).isEmpty = (s.routesOf i).isEmpty := by
  have hc : ∀ r : Route, (if p r then r.command s.rackTime else r).source = r.source := by
    intro r; unfold Route.command; split <;> [(split <;> rfl); rfl]
  have hl : ∀ l : List Route, ((l.map fun r => if p r then r.command s.rackTime else r).filter fun r => r.source = i).length
      = (l.filter fun r => r.source = i).length := by
    intro l
    induction l with
    | nil => rfl
    | cons r l ih =>
      simp only [List.map_cons, List.filter_cons, hc]
      split <;> simp [ih]
  rw [Bool.eq_iff_iff, List.isEmpty_iff, List.isEmpty_iff, ← List.length_eq_zero_iff, ← List.length_eq_zero_iff]
  simp only [State.routesOf, State.openRoutes_routes, hl]

/-! ### The end of claims (R37 to R39) -/

theorem wf_freeSource {s : State} (hw : Table.wf {} s.sources) (i : Fin 8) : Table.wf {} (s.freeSource i).sources := by
  unfold State.freeSource
  split
  · exact wf_setSource hw _ _
  · split
    · exact hw
    · exact Table.wf_write hw _ _

/-- The end of a claim on one source: FREE at once without routes, *freeing* otherwise. -/
theorem source_freeSource {s : State} (hw : Table.wf {} s.sources) (i j : Fin 8) :
    (s.freeSource i).source j = if j = i then
      (if (s.routesOf i).isEmpty then {} else { s.source i with freeing := true }) else s.source j := by
  unfold State.freeSource
  split
  · rw [source_setSource hw]
  · split
    · rename_i h
      split
      · rename_i hji; subst hji; cases hx : s.source j; simp_all
      · rfl
    · rw [source_setSource (s := s.openRoutes _) hw]; rfl

theorem wf_endClaims {s : State} (hw : Table.wf {} s.sources) (bay : Bay) : Table.wf {} (s.endClaims bay).sources := by
  unfold State.endClaims
  generalize allSources = l
  induction l generalizing s with
  | nil => exact hw
  | cons i l ih =>
    simp only [List.foldl_cons]
    split
    · exact ih (wf_freeSource hw i)
    · exact ih hw

theorem routesOf_freeSource (s : State) (i j : Fin 8) :
    ((s.freeSource i).routesOf j).isEmpty = (s.routesOf j).isEmpty := by
  unfold State.freeSource
  split
  · rfl
  · split
    · rfl
    · exact routesOf_openRoutes s _ j

/-- Every claim of a bay ends: its sources are FREE or *freeing*, all others are kept (R39). -/
theorem source_endClaims {s : State} (hw : Table.wf {} s.sources) (bay : Bay) (j : Fin 8) :
    (s.endClaims bay).source j = if (s.source j).owner = some bay then
      (if (s.routesOf j).isEmpty then {} else { s.source j with freeing := true }) else s.source j := by
  have key : ∀ (l : List (Fin 8)) (t : State), Table.wf {} t.sources → l.Nodup →
      (l.foldl (fun t i => if (t.source i).owner = some bay then t.freeSource i else t) t).source j =
        if j ∈ l ∧ (t.source j).owner = some bay then
          (if (t.routesOf j).isEmpty then {} else { t.source j with freeing := true }) else t.source j := by
    intro l
    induction l with
    | nil => intro t _ _; simp
    | cons i l ih =>
      intro t ht hn
      obtain ⟨hi, hn⟩ := List.nodup_cons.1 hn
      simp only [List.foldl_cons]
      split
      · rename_i ho
        rw [ih _ (wf_freeSource ht i) hn]
        simp only [source_freeSource ht, routesOf_freeSource, List.mem_cons]
        by_cases hj : j = i
        · subst hj; simp [hi, ho]
        · simp [hj]
      · rename_i ho
        rw [ih _ ht hn]
        by_cases hj : j = i
        · subst hj; simp [hi, ho]
        · simp [hj]
  rw [State.endClaims, key allSources s hw (by decide)]
  have : j ∈ allSources := by clear key; revert j; decide
  simp [this]

theorem claimsEnded_endClaims {s : State} (hw : Table.wf {} s.sources) (bay : Bay) :
    ClaimsEnded bay s (s.endClaims bay) := by
  intro i
  rw [source_endClaims hw]
  refine ⟨fun h => ?_, fun h => ?_⟩
  · rw [if_pos h]
    split
    · exact .inl rfl
    · exact .inr rfl
  · rw [if_neg h]

/-- The end of claims touches sources and routes alone. -/
theorem endClaims_eq (s : State) (bay : Bay) :
    s.endClaims bay = { s with sources := (s.endClaims bay).sources, routes := (s.endClaims bay).routes } := by
  have hf : ∀ (t : State) (i : Fin 8), t.freeSource i =
      { t with sources := (t.freeSource i).sources, routes := (t.freeSource i).routes } := by
    intro t i; unfold State.freeSource; split <;> [rfl; (split <;> rfl)]
  unfold State.endClaims
  generalize allSources = l
  induction l generalizing s with
  | nil => rfl
  | cons i l ih =>
    simp only [List.foldl_cons]
    split
    · rw [ih (s.freeSource i), hf s i]
    · exact ih s

end Sys2Proof.Machine
end

