-- ==== Sys2Proof/Tests/Slice0.lean ====
section
/-! SUPPORT. Tests on small states. `ill_…`: a term that each well-formedness check refuses. `test_…`: a value of the
manual. `witness_<Statement>…`: a state and operands that meet the hypotheses of a clause of that statement, at the
boundaries of its ranges, and what the command then leaves. -/

namespace Sys2Proof.Tests

open Sys2Proof.Machine

/-! ### Well-formedness -/

/-- A request of bay A's port with an operand length. -/
def ra (n : Nat) : Req := ⟨.bsqA, 0, BitVec.ofNat 8 n⟩

/-- A request of bay B's port with an operand length. -/
def rb (n : Nat) : Req := ⟨.bsqB, 0, BitVec.ofNat 8 n⟩

/-- A request of the station with a tag and an operand length. -/
def rs (tag n : Nat) : Req := ⟨.ssv, BitVec.ofNat 8 tag, BitVec.ofNat 8 n⟩

theorem ill_request_length : (Instr.clamp (ra 251)).wf = false ∧ (Instr.clamp (ra 250)).wf = true := by decide
theorem ill_over_length : (Instr.operandLengthOver250 (ra 250) 0).wf = false := by decide
theorem ill_unknown_code : (Instr.unknownRequest (ra 0) 0x7B).wf = true ∧ (Instr.unknownRequest (ra 0) 0x78).wf = false := by
  decide
theorem ill_image_length : (Instr.endOfLoad (.image [0xC7])).wf = false := by decide
theorem ill_save_length :
    (Instr.calSaveEnd (.readBack [0xC7])).wf = false ∧ (Instr.calSaveEnd .noAck).wf = true := by decide
theorem ill_serial_length :
    (Instr.start (ra 6) ⟨2, [0x41], 0, none, none, none⟩).wf = false := by decide
theorem ill_payload_length : (Instr.setPayload (ra 4) 0 0 [1]).wf = false := by decide
theorem ill_note_value : (Instr.noteStep (ra 1) 0 (some 5)).wf = false := by decide
theorem ill_cells : (Instr.displayWrite (ra 2) [0x41]).wf = false := by decide
theorem ill_cancel : (Instr.promptCancel (ra 1) none).wf = false := by decide
theorem ill_frame_data :
    (Instr.frameReceived .a ⟨false, 5, [1, 2, 3, 4, 5, 6, 7, 8, 9]⟩).wf = false := by decide

/-! ### States -/

/-- A part that runs at rack time 1000, the store READY, both bays LOADED, every input high. -/
def ready : State := { State.reset with
  rackTime := 1000, settling := false, store := ⟨.ready, none⟩, inputs := ⟨⟨true, true, true, true⟩, ⟨true, true, true, true⟩⟩
  bays := ⟨{ ctx := { state := .loaded } }, { ctx := { state := .loaded } }⟩, meu := { Meu.reset with sense := none } }

/-- Bay A in a state and phase. -/
def inState (st : BayState) (ph : Option Phase := none) (s : State := ready) : State :=
  s.setCtx .a { (s.bays.get .a).ctx with state := st, phase := ph }

/-- The value that a next state gives. -/
def left {α : Type} (f : State → α) (o : Host.Outcome State Fault Refusal) : Option α :=
  match o with
  | .next t => some (f t)
  | .fault _ => none
  | .refused _ => none

/-- The status a port was answered. -/
def status (m : Master) (t : State) : Option Status := (t.ports.get m).answer.map Answer.status

/-- The body a request is answered with on its port. -/
def body (m : Master) (i : Instr) (s : State) : Option (Option Body) :=
  left (fun t => (t.ports.get m).answer.map Answer.body) (exec i s)

/-- What a request answers on its port. -/
def told (m : Master) (i : Instr) (s : State) : Option Status := (left (status m) (exec i s)).join

/-- Bay A TESTING unit 1 with its reservation, its port ACTIVE. -/
def testing : State :=
  { inState .testing with
    nets := ⟨{ portState := .active, tokens := 2000, accruedAt := 1000 }, {}⟩, vlg := { reservations := [.unit .a] }
    bays := ⟨{ ctx := { state := .testing, serial := some [0x41], planTag := some 7, unitSeq := 1, startTime := some 400
                        unitOwed := true }
               out := ⟨true, true, true⟩, lamp := .busy, timer := none }, (ready.bays.get .b)⟩ }

/-- Bay A POWERED, its port ACTIVE. -/
def powered : State := { inState .powered with nets := ⟨{ portState := .active, tokens := 2000, accruedAt := 1000 }, {}⟩ }

/-- The fixture inputs of bay A. -/
def withInputs (i : Inputs) (s : State) : State := { s with inputs := s.inputs.set .a i }

/-- A full log. -/
def full (s : State) : State := { s with vlg := { s.vlg with log := List.replicate 128 (.unit
  ⟨.b, 1, [0x41], 0, .pass, {}, 5, none, false, false, 9⟩) } }

/-! ### The step, framing and admission -/

theorem witness_StepRunsTheFrontCommand :
    left State.rackTime (step { ready with pending := [.statusRead (ra 0)] }) = some 1000 ∧
    left (status .bsqA) (step { ready with pending := [.statusRead (ra 0)] }) = some (some .ok) := by decide

/-- Stopped, nothing due, one event due (the expiry of a fixture timer at its rack time). -/
theorem witness_IdleStepIsATick :
    left State.rackTime (step { ready with running := false }) = some 1000 ∧
    (ready.pending = [] ∧ ready.running = true ∧ ready.dueEvents = []) ∧
    left State.rackTime (step ready) = some 1001 ∧
    (ready.setBay .a { ctx := { state := .powering }, timer := some ⟨1000, .powerSettle⟩ }).dueEvents =
      [.fixtureTimerExpiry .a] := by decide

/-- A save with `n` writes acknowledged, the present one sent at a rack time. -/
def savingAt (n : Nat) (sent : Time) (s : State) : State :=
  { s with store := ⟨.saving, some ⟨0xC7 :: List.replicate 40 7, n, sent⟩⟩ }

/-- The hypotheses of the clauses for a save whose last write is out, one whose writes are all acknowledged, and for a
time at which the timers of both bays are due. -/
theorem witness_IdleStepIsATick_save :
    ((savingAt 41 1000 ready).pending = [] ∧ (savingAt 41 1000 ready).running = true ∧
      (savingAt 41 1000 ready).dueEvents = []) ∧
    left (fun t => (t.rackTime, t.store.save.map Save.written)) (step (savingAt 42 900 ready)) = some (1001, some 42) ∧
    ((ready.setBay .a { ctx := { state := .powering }, timer := some ⟨1000, .powerSettle⟩ }).setBay .b
      { ctx := { state := .powering }, timer := some ⟨1000, .powerSettle⟩ }).dueEvents =
      [.fixtureTimerExpiry .a, .fixtureTimerExpiry .b] := by decide

theorem test_tick_wraps : left State.rackTime (step { ready with rackTime := 0xFFFFFFFF }) = some 0 := by decide

/-- Each check of R194 fails first once; STATUS READ passes during the load. -/
theorem witness_AdmissionChecksInOrder :
    told .bsqA (.logPop (ra 9)) State.reset = some .busy ∧ told .bsqA (.logPop (ra 9)) ready = some .denied ∧
    told .ssv (.noteStep (rs 1 1) 0 none) ready = some .denied ∧ told .bsqA (.clamp (ra 1)) ready = some .range ∧
    told .ssv (.clamp (rs 3 0)) ready = some .range ∧ told .ssv (.clamp (rs 0 0)) ready = some .range ∧
    told .ssv (.clamp (rs 2 0)) ready = some .ok ∧ told .bsqA (.statusRead (ra 0)) State.reset = some .ok ∧
    told .bsqA (.clamp (ra 0)) { ready with ports := ⟨⟨true, none⟩, {}, {}⟩ } = none := by decide

theorem witness_FramingFaultsHaveNoEffect :
    told .bsqB (.operandLengthOver250 (rb 251) 0x10) ready = some .range ∧
    told .bsqB (.unknownRequest (rb 0) 0xFF) ready = some .unknown ∧
    left (fun t => t.ports.bsqA) (exec (.selRisesEarly .bsqA) { ready with ports := ⟨⟨true, some ⟨.ok, .none⟩⟩, {}, {}⟩ }) =
      some ⟨false, none⟩ := by decide

/-! ### Power, reset and the store -/

theorem test_powerOn : left (fun t => (t.bayState .a, t.bayState .b, t.store.state, t.cal.uncal, t.rackTime))
    (exec (.powerOn true true false) { testing with running := false, inputs := ⟨⟨true, false, false, false⟩, {}⟩ }) =
      some (.loaded, .vacant, .loading, true, 0) := by decide

theorem test_powerOn_holds_a_port : left (fun t => t.ports.ssv.held) (exec (.powerOn true true false) ready) = some true := by
  decide

theorem witness_CutOffStopsThePart :
    left State.running (exec .rstnLow ready) = some false ∧ left State.running (exec .supplyLoss ready) = some false ∧
    left (fun t => t.inputs.a.unitPresent) (exec (.unitPresentFalling .a) { ready with running := false }) = some false := by
  decide

/-- Gain 0x8000 and offset -2 for the first record, and the defaults for the other nine. -/
def image : List Byte := 0xC7 :: [0x80, 0x00, 0xFF, 0xFE] ++ (List.replicate 9 [0x40, 0x00, 0x00, 0x00]).flatten

theorem witness_EndOfLoadTakesAValidImage :
    (State.reset.running = true ∧ State.reset.store.state = .loading ∧ image.length = 41 ∧ image.getD 0 0 = 0xC7) ∧
    left (fun t => (t.calRec .a .v2, t.calRec .b .lum, t.cal.uncal, t.store.state)) (exec (.endOfLoad (.image image)) State.reset)
      = some (⟨32768, -2⟩, ⟨16384, 0⟩, false, .ready) ∧
    left (fun t => (t.calRec .a .v2, t.cal.uncal, t.store.state)) (exec (.endOfLoad (.image (image.set 0 0xC6))) State.reset)
      = some (⟨16384, 0⟩, true, .ready) := by decide

theorem witness_EndOfLoadTakesAValidImage_time :
    left (fun t => (t.store.state, t.cal.uncal)) (exec (.endOfLoad .timeLimit) { State.reset with rackTime := 100 }) =
      some (.ready, true) := by decide

theorem test_endOfLoad_too_early : left (fun t => t.store.state)
    (exec (.endOfLoad .timeLimit) { State.reset with rackTime := 99 }) = some .loading := by decide

theorem witness_CalSaveKeepsASnapshot :
    Admitted (rs 0 0) .station false ready ∧ told .ssv (.calSave (rs 0 0)) ready = some .accepted ∧
    told .ssv (.calSave (rs 0 0)) { ready with store := ⟨.saving, none⟩ } = some .busy := by unfold Admitted; decide

theorem witness_CalSaveKeepsASnapshot_end :
    let go := fun how s => left (fun t => (t.store.state, t.cal.uncal, t.attn.ssv.edges.length)) (exec (.calSaveEnd how) s)
    let bytes := 0xC7 :: List.replicate 40 7
    go (.readBack bytes) (savingAt 42 1000 ready) = some (.ready, false, 1) ∧
    go (.readBack (bytes.set 40 6)) (savingAt 42 1000 ready) = some (.fault, true, 1) ∧
    go (.readBack bytes) (savingAt 41 1000 ready) = some (.saving, true, 0) ∧
    go .noAck (savingAt 3 1000 ready) = some (.fault, true, 1) ∧
    go .timeLimit (savingAt 41 980 ready) = some (.fault, true, 1) ∧
    go .timeLimit (savingAt 41 981 ready) = some (.saving, true, 0) ∧
    go .timeLimit (savingAt 42 900 ready) = some (.saving, true, 0) := by
  dsimp only
  refine ⟨?_, ?_, ?_, ?_, ?_, ?_, ?_⟩ <;> decide

/-- The stages of a save over an old image: before the first write, after it, before the last and after it. -/
theorem witness_CalSaveKeepsASnapshot_stages :
    let old := 0xC7 :: List.replicate 40 (5 : Byte)
    let at_ := fun n => Save.stored ⟨0xC7 :: List.replicate 40 7, n, 0⟩ old
    at_ 0 = old ∧ at_ 1 = 0x00 :: List.replicate 40 5 ∧ at_ 2 = [0x00, 7] ++ List.replicate 39 5 ∧
    at_ 41 = 0x00 :: List.replicate 40 7 ∧ at_ 42 = 0xC7 :: List.replicate 40 7 := by decide

/-- The bounds of a record: gain 65535 and offset -32768 come back from the image. -/
theorem witness_CalSaveKeepsASnapshot_image :
    left (fun t => t.calRec .a .v2)
      (exec (.endOfLoad (.image (Cal.image { recs := [(0, ⟨65535, -32768⟩)], uncal := true }))) State.reset) =
        some ⟨65535, -32768⟩ := by decide

theorem witness_RackResetKeepsTheTable :
    Admitted (rs 0 0) .station false testing ∧
    left (fun t => (t.bayState .a, t.rackTime, t.vlg.log.length, t.store.state)) (exec (.rackReset (rs 0 0)) testing) =
      some (.loaded, 0, 0, .ready) ∧
    told .ssv (.rackReset (rs 0 0)) { ready with store := ⟨.saving, none⟩ } = some .busy := by unfold Admitted; decide

/-! ### Attention -/

theorem witness_AttentionAndNoticesAreDelivered :
    told .bsqA (.statusRead (ra 0)) State.reset = some .ok ∧ told .bsqA (.attentionRead (ra 0)) ready = some .empty ∧
    left (fun t => (t.attn.bsqA.edges, status .bsqA t))
      (exec (.attentionRead (ra 0)) (ready.raise .bsqA ⟨.bayState, some .a, .none⟩)) = some ([], some .ok) ∧
    Admitted (ra 2) .anyPort false ready := by unfold Admitted; decide

/-- The sender itself and a target of 4 are refused; a full slot takes the new code and counts up to 255. -/
theorem witness_AttentionAndNoticesAreDelivered_notice :
    told .bsqA (.noticePost (ra 2) 1 9) ready = some .range ∧ told .bsqA (.noticePost (ra 2) 4 9) ready = some .range ∧
    left (fun t => t.attn.ssv.notices) (exec (.noticePost (ra 2) 3 9) ready) = some [⟨.bsqA, 9, 0⟩] ∧
    left (fun t => t.attn.ssv.notices) (exec (.noticePost (ra 2) 3 9)
      { ready with attn := ⟨{}, {}, ⟨[], [⟨.bsqA, 5, 255⟩, ⟨.bsqB, 1, 0⟩]⟩⟩ }) = some [⟨.bsqA, 9, 255⟩, ⟨.bsqB, 1, 0⟩] := by
  decide

/-- SAFE stands before PROMPT in the delivery order (R201). -/
theorem test_attention_order : left (status .bsqA) (exec (.attentionRead (ra 0)) ready) = some (some .empty) ∧
    insertEdge ⟨.safe, some .a, .none⟩ [⟨.prompt, some .a, .none⟩] =
      [⟨.safe, some .a, .none⟩, ⟨.prompt, some .a, .none⟩] := by decide

/-! ### Bays -/

theorem witness_ClampAndContactStartTheirWaits :
    Admitted (ra 0) .anyPort true ready ∧ Table.wf {} ready.sources ∧ ready.bayState .a = .loaded ∧
    told .bsqA (.clamp (ra 0)) ready = some .ok ∧
    told .bsqA (.clamp (ra 0)) (withInputs ⟨true, false, false, true⟩ ready) = some .accepted ∧
    told .bsqA (.contact (ra 0)) (inState .clamped) = some .ok ∧
    told .bsqA (.contact (ra 0)) (withInputs ⟨true, true, false, true⟩ (inState .clamped)) = some .accepted := by
  unfold Admitted; decide

theorem test_clamp_waits : left (fun t => (t.bayState .a, (t.bays.get .a).timer, (t.bays.get .a).out))
    (exec (.clamp (ra 0)) (withInputs ⟨true, false, false, true⟩ ready)) =
      some (.clamping, some ⟨3000, .clampFeedback⟩, ⟨true, false, false⟩) := by decide

/-- The power settle period of 300 ms, and of 0. -/
theorem witness_PowerBringsThePortUp :
    Admitted (ra 0) .anyPort true (inState .contacted) ∧
    left (fun t => (t.bayState .a, (t.bays.get .a).timer)) (exec (.power (ra 0)) (inState .contacted)) =
      some (.powering, some ⟨1300, .powerSettle⟩) ∧
    left (fun t => (t.bayState .a, t.nets.a.portState, t.nets.a.tokens))
      (exec (.power (ra 0)) { inState .contacted with setups := ⟨{ powerSettle := 0 }, {}⟩ }) =
        some (.powered, .active, 2000) ∧
    left (fun t => (t.bayState .a, t.nets.a.portState)) (exec (.fixtureTimerExpiry .a)
      (ready.setBay .a { ctx := { state := .powering }, timer := some ⟨1000, .powerSettle⟩ })) =
        some (.powered, .active) := by unfold Admitted; decide

/-- The operands of START: serial "A", plan tag 7. -/
def startOps : StartOps := ⟨1, [0x41], 7, none, some true, none⟩

theorem witness_StartBeginsAUnit :
    Admitted (ra 5) .anyPort true powered ∧
    left (fun t => (t.bayState .a, t.vlg.reservations, t.bays.a.ctx.unitSeq, t.bays.a.ctx.policy))
      (exec (.start (ra 5) startOps) powered) = some (.testing, [.unit .a], 1, ⟨false, true, true⟩) ∧
    told .bsqA (.start (ra 5) { startOps with serial := [0x1F] }) powered = some .range ∧
    told .bsqA (.start (ra 4) { startOps with serialLen := 0, serial := [] }) powered = some .range ∧
    told .bsqA (.start (ra 25) { startOps with serialLen := 21, serial := List.replicate 21 0x41 }) powered = some .range ∧
    told .bsqA (.start (ra 24) { startOps with serialLen := 20, serial := List.replicate 20 0x7E }) powered = some .ok := by
  unfold Admitted; decide

set_option maxRecDepth 4000 in
/-- No room: 128 records. -/
theorem witness_StartBeginsAUnit_full : told .bsqA (.start (ra 5) startOps) (full powered) = some .full := by decide

theorem witness_BayRequestsOutsideTheirStates :
    Admitted (ra 0) .anyPort true (inState .safe) ∧
    [Instr.clamp (ra 0), .contact (ra 0), .power (ra 0), .finish (ra 0), .unload (ra 0), .abort (ra 0),
      .start (ra 5) startOps].map (fun i => told .bsqA i (inState .safe)) = List.replicate 7 (some .state) ∧
    told .bsqA (.release (ra 0)) (inState .closing) = some .state ∧
    told .bsqA (.release (ra 0)) { inState .safe with emergency := true } = some .state := by unfold Admitted; decide

theorem witness_FinishEndsTheUnit :
    Admitted (ra 0) .anyPort true testing ∧ testing.bayState .a = .testing ∧ testing.meu.waiters.Nodup ∧
    left (fun t => (t.bayState .a, t.bays.a.lamp, t.vlg.reservations, t.nets.a.portState)) (exec (.finish (ra 0)) testing) =
      some (.closing, .pass, [], .off) ∧
    left (fun t => t.vlg.log) (exec (.finish (ra 0)) testing) = some [.unit
      ⟨.a, 1, [0x41], 7, .pass, {}, 600, none, false, false, 1000⟩] := by unfold Admitted; decide

/-- A measurement of IL for bay A's sequencer in its SAMPLING phase. -/
def sampling : Measurement := ⟨.bsqA, .a, .il, 0, 1, 0, none, .sampling, []⟩

/-- Bay A's sequencer holds the grant since 900 and measures. -/
def measuring (x : Measurement) (s : State) : State :=
  { s with meu := { s.meu with claims := ⟨.holding .normal 900 250 false, .none, .none⟩, inFlight := some x } }

/-- The tables, the waiters and the routes that FINISH, the withdrawals, BAY RESET and entry to SAFE ask for. -/
theorem witness_FinishEndsTheUnit_tables :
    let s := ({ testing with routes := [⟨0, .a, 4, .closed⟩] }).setSource 0 { owner := some .a, parked := false }
    s.running = true ∧ Table.wf {} s.sources ∧ Table.wf none s.responses ∧ s.meu.waiters.Nodup ∧
    Table.wf {} (s.nets.get .a).runtime ∧ Table.wf {} (s.nets.get .b).runtime ∧ OwnRoutes .a s ∧
    left (fun t => t.routes) (exec (.finish (ra 0)) s) = some [⟨0, .a, 4, .opening 1003⟩] := by
  unfold OwnRoutes
  dsimp only
  refine ⟨?_, ?_, ?_, ?_, ?_, ?_, ?_, ?_⟩ <;> decide

/-- UNITS with PASSES, FAILS or ABORTS of the unit that ends, SAFE_ENTRIES, and none for a bay without a unit. -/
theorem witness_units_are_counted :
    let n := fun i s => left (fun t => [Stat.units, .passes, .fails, .aborts, .safeEntries].map (t.stat .a)) (exec i s)
    n (.finish (ra 0)) testing = some [1, 1, 0, 0, 0] ∧
    n (.finish (ra 0)) (testing.setCtx .a { testing.bays.a.ctx with counts := ⟨0, 0, 1, 0⟩ }) = some [1, 0, 1, 0, 0] ∧
    n (.abort (ra 0)) testing = some [1, 0, 0, 1, 0] ∧ n (.bayReset (ra 0)) testing = some [1, 0, 0, 1, 0] ∧
    n (.interlockOkFalling .a) testing = some [1, 0, 0, 1, 1] ∧ n (.interlockOkFalling .a) powered = some [0, 0, 0, 0, 1] ∧
    n (.unload (ra 0)) powered = some [0, 0, 0, 0, 0] := by
  dsimp only
  refine ⟨?_, ?_, ?_, ?_, ?_, ?_, ?_⟩ <;> decide

theorem witness_FinishEndsTheUnit_busy : told .bsqA (.finish (ra 0)) (measuring sampling testing) = some .busy := by decide

/-- One failed step, one marginal step, one marginal step that fails the unit, one unknown frame that fails it. -/
theorem test_unit_verdicts :
    let unit := fun (c : Counts) (p : Policy) (u : Bool) => left (fun t => t.bays.a.ctx.unitVerdict)
      (exec (.finish (ra 0)) (testing.setCtx .a { testing.bays.a.ctx with counts := c, policy := p, unknownSeen := u }))
    unit ⟨5, 0, 1, 0⟩ {} false = some (some .fail) ∧ unit ⟨5, 0, 0, 1⟩ {} false = some (some .fail) ∧
    unit ⟨5, 1, 0, 0⟩ {} false = some (some .passMarginal) ∧ unit ⟨5, 1, 0, 0⟩ ⟨true, false, true⟩ false = some (some .fail) ∧
    unit ⟨5, 0, 0, 0⟩ ⟨false, true, true⟩ true = some (some .fail) ∧ unit ⟨5, 0, 0, 0⟩ {} true = some (some .pass) := by
  decide

theorem witness_WithdrawalsEnterClosing :
    Admitted (ra 0) .anyPort true (inState .clamped) ∧
    (let phase := fun (i : Instr) (st : BayState) => left (fun t => (t.bayState .a, t.bays.a.ctx.phase)) (exec i (inState st))
     [phase (.unload (ra 0)) .clamped, phase (.unload (ra 0)) .contacted, phase (.unload (ra 0)) .powered,
      phase (.abort (ra 0)) .clamping, phase (.abort (ra 0)) .contacting, phase (.abort (ra 0)) .powering] =
      [some (.closing, some .unclamp), some (.closing, some .retract), some (.closing, some .powerDown),
       some (.closing, some .unclamp), some (.closing, some .retract), some (.closing, some .powerDown)]) := by
  unfold Admitted; decide

/-- The settle period and the feedback timeouts at 0, and the inputs that stand open already: RETRACT, SAFE, UNCLAMP,
LOADED, VACANT. -/
theorem witness_WithdrawalsEnterClosing_ends :
    let go := fun (p : Setup) (i : Inputs) => left (fun t => (t.bayState .a, t.bays.a.ctx.phase, status .bsqA t))
      (exec (.unload (ra 0)) { withInputs i powered with setups := ⟨p, {}⟩ })
    go { powerOffSettle := 0 } ⟨true, true, true, true⟩ = some (.closing, some .retract, some .accepted) ∧
    go { powerOffSettle := 0, contactTimeout := 0 } ⟨true, true, true, true⟩ = some (.safe, none, some .ok) ∧
    go { powerOffSettle := 0 } ⟨true, true, false, true⟩ = some (.closing, some .unclamp, some .accepted) ∧
    go { powerOffSettle := 0, clampTimeout := 0 } ⟨true, true, false, true⟩ = some (.safe, none, some .ok) ∧
    go { powerOffSettle := 0 } ⟨true, false, false, true⟩ = some (.loaded, none, some .ok) ∧
    go { powerOffSettle := 0 } ⟨false, false, false, true⟩ = some (.vacant, none, some .ok) := by
  dsimp only
  refine ⟨?_, ?_, ?_, ?_, ?_, ?_⟩ <;> decide

/-- The ABORT key in each state it takes outside TESTING. -/
theorem witness_WithdrawalsEnterClosing_key :
    [BayState.clamping, .clamped, .contacting, .contacted, .powering, .powered].map (fun st =>
      left (fun t => t.bays.a.ctx.phase) (exec (.abortKey .a) (inState st))) =
      [some (some .unclamp), some (some .unclamp), some (some .retract), some (some .retract), some (some .powerDown),
       some (some .powerDown)] ∧
    left (fun t => (t.nets.a.portState, t.attn.ssv.edges)) (exec (.abortKey .a) powered) =
      some (.off, [⟨.bayState, some .a, .none⟩]) := by decide

theorem witness_AbortEndsTheUnitAborted :
    Admitted (ra 0) .anyPort true testing ∧ testing.bays.a.ctx.policy.operatorAbort = true ∧
    left (fun t => (t.bayState .a, t.bays.a.lamp, t.bays.a.ctx.unitVerdict)) (exec (.abort (ra 0)) testing) =
      some (.closing, .aborted, some .aborted) ∧
    left (fun t => (t.bayState .a, t.attn.ssv.edges)) (exec (.abortKey .a) testing) =
      some (.closing, [⟨.bayState, some .a, .none⟩]) := by unfold Admitted; decide

/-- RELEASE by the CLAMP output and the inputs: CLAMPED, CLAMPING, LOADED, VACANT. -/
theorem witness_ReleaseLeavesSafe :
    Admitted (ra 0) .anyPort true (inState .safe) ∧
    (let go := fun (out : Bool) (i : Inputs) => left (State.bayState · .a) (exec (.release (ra 0))
      (withInputs i (ready.setBay .a { ctx := { state := .safe, safeCause := some .interlock }, out := ⟨out, false, false⟩ })))
     [go true ⟨true, true, true, true⟩, go true ⟨true, false, false, true⟩, go false ⟨true, false, false, true⟩,
      go false ⟨false, false, false, true⟩] = [some .clamped, some .clamping, some .loaded, some .vacant]) := by
  unfold Admitted; decide

theorem witness_BayResetOpensTheBay :
    Admitted (ra 0) .anyPort true testing ∧
    left (fun t => (t.bayState .a, t.bays.a.lamp, t.bays.a.out, t.vlg.log)) (exec (.bayReset (ra 0)) testing) =
      some (.loaded, .off, ⟨false, false, false⟩, [.unit
        ⟨.a, 1, [0x41], 7, .aborted, {}, 600, some .bayReset, false, false, 1000⟩]) := by unfold Admitted; decide

/-- Operands at the bounds and beyond them. -/
def setupOps : SetupOps := ⟨99, 5001, 2001, 0, 0xFFFFFFFFFFFF, 1000, 9, 199, 0, 16, 15, 8, 60001, 9, 800, 1, 0, 2, 0, 0⟩

theorem witness_BaySetupIsStoredClamped :
    Admitted (rs 1 34) .anyPort true ready ∧
    left (fun t => t.setups.a) (exec (.baySetupWrite (rs 1 34) setupOps) ready) =
      some ⟨100, 5000, 2000, 0, 0xFFFFFFFFFFFF, 1000, 10, 200, 1, 15, 15, 7, 60000, 10, 799, true, false, true, false, false⟩ ∧
    told .ssv (.baySetupWrite (rs 1 34) { setupOps with bitRate := 300 }) ready = some .range ∧
    told .bsqA (.baySetupRead (ra 0)) ready = some .ok ∧ told .bsqA (.bayRead (ra 0)) ready = some .ok := by
  unfold Admitted; decide

theorem witness_AwaitedEdgesMoveTheBay :
    let go := fun (i : Instr) (s : State) => left (fun t => (t.bayState .a, t.bays.a.ctx.phase)) (exec i s)
    let closing := fun p => inState .closing (some p)
    go (.unitPresentRising .a) (inState .vacant) = some (.loaded, none) ∧
    go (.clampClosedRising .a) (inState .clamping) = some (.clamped, none) ∧
    go (.contactMadeRising .a) (inState .contacting) = some (.contacted, none) ∧
    go (.contactMadeFalling .a) (closing .retract) = some (.closing, some .unclamp) ∧
    go (.clampClosedFalling .a) (closing .unclamp) = some (.loaded, none) ∧
    go (.clampClosedFalling .a) (withInputs ⟨false, true, false, true⟩ (closing .unclamp)) = some (.vacant, none) ∧
    go (.unitPresentFalling .a) ready = some (.vacant, none) ∧
    go (.fixtureTimerExpiry .a) ((closing .powerDown).setBay .a
      { (closing .powerDown).bays.a with timer := some ⟨1000, .powerOffSettle⟩ }) = some (.closing, some .retract) := by
  decide

theorem witness_AwaitedEdgesMoveTheBay_levels :
    left (fun t => t.inputs.a.interlockOk) (exec (.interlockOkRising .a) (withInputs {} ready)) = some true ∧
    left State.emergency (exec .emergencyInactive { ready with emergency := true }) = some false := by decide

/-- Falls that R17 to R20 name for no state of theirs: the level alone. -/
theorem witness_AwaitedEdgesMoveTheBay_falls :
    exec (.unitPresentFalling .a) (inState .vacant) = .next (withInputs ⟨false, true, true, true⟩ (inState .vacant)) ∧
    exec (.clampClosedFalling .a) (inState .clamping) = .next (withInputs ⟨true, false, true, true⟩ (inState .clamping)) ∧
    exec (.contactMadeFalling .a) (inState .contacting) = .next (withInputs ⟨true, true, false, true⟩ (inState .contacting)) ∧
    exec (.interlockOkFalling .a) ready = .next (withInputs ⟨true, true, true, false⟩ ready) :=
  ⟨rfl, rfl, rfl, rfl⟩

theorem witness_SafetyEventsEnterSafe :
    let go := fun (i : Instr) (s : State) => left (fun t => (t.bayState .a, t.bays.a.ctx.safeCause)) (exec i s)
    let late := fun st p => ready.setBay .a { ctx := { state := st }, timer := some ⟨1000, p⟩ }
    go (.unitPresentFalling .a) (inState .clamping) = some (.safe, some .unitLost) ∧
    go (.clampClosedFalling .a) (inState .closing (some .retract)) = some (.safe, some .clampLost) ∧
    go (.contactMadeFalling .a) (inState .closing (some .powerDown)) = some (.safe, some .contactLost) ∧
    go (.interlockOkFalling .a) testing = some (.safe, some .interlock) ∧
    go (.emergencyActive .b) testing = some (.safe, some .emergency) ∧
    go (.fixtureTimerExpiry .a) (late .clamping .clampFeedback) = some (.safe, some .fixtureTimeout) ∧
    go (.interlockOkFalling .a) (inState .safe) = some (.safe, none) := by decide

/-- EMERGENCY with both bays in their fixtures, with the other bay alone in it, with none. -/
theorem witness_SafetyEventsEnterSafe_emergency :
    let go := fun (bay : Bay) (s : State) => left (fun t => (t.bayState .a, t.bayState .b, t.emergency))
      (exec (.emergencyActive bay) s)
    go .a (testing.setBay .b { ctx := { state := .clamping } }) = some (.safe, .safe, true) ∧
    go .b testing = some (.safe, .loaded, true) ∧ go .a ready = some (.loaded, .loaded, true) := by decide

/-- The alert page, the lamp and the UNIT record of an entry to SAFE. -/
theorem test_safe_entry : left (fun t => (t.windows.a.start, t.windows.a.savedStart, t.bays.a.lamp, t.vlg.log.length))
    (exec (.interlockOkFalling .a) { testing with setups := ⟨{ alertPage := 700 }, {}⟩ }) =
      some (700, some 0, .safe, 1) := by decide

/-! ### Sources and routes -/

/-- Source `i` as bay A owns it. -/
def owning (i : Fin 8) (x : Source) (s : State) : State := s.setSource i { x with owner := some .a }

/-- A route of bay A. -/
def routed (l : List Route) (s : State) : State := { s with routes := l }

theorem witness_SourceClaimsFollowTheTable :
    Admitted (ra 1) .anyPort true ready ∧
    left (fun t => (status .bsqA t, (t.source 7).owner)) (exec (.sourceClaim (ra 1) 7) ready) = some (some .ok, some .a) ∧
    told .bsqA (.sourceClaim (ra 1) 8) ready = some .range ∧ told .bsqA (.sourceFree (ra 1) 8) ready = some .range ∧
    told .bsqA (.sourceClaim (ra 1) 0) (inState .safe) = some .state ∧
    told .bsqA (.sourceClaim (ra 1) 0) (owning 0 {} ready) = some .ok ∧
    told .bsqA (.sourceClaim (ra 1) 0) (owning 0 { freeing := true } ready) = some .busy ∧
    told .bsqB (.sourceClaim (rb 1) 0) (owning 0 {} ready) = some .denied ∧
    told .bsqA (.sourceRead (ra 1) 8) ready = some .range ∧ told .bsqA (.sourceRead (ra 1) 0) ready = some .ok := by
  unfold Admitted; decide

/-- Freed without routes, freed with a CLOSED route, freed again while it opens, freed by the wrong bay. -/
theorem witness_SourceClaimsFollowTheTable_free :
    left (fun t => (status .bsqA t, t.source 0)) (exec (.sourceFree (ra 1) 0) (owning 0 { levelCode := 5 } ready)) =
      some (some .ok, {}) ∧
    left (fun t => (status .bsqA t, (t.source 0).freeing, t.routes))
      (exec (.sourceFree (ra 1) 0) (routed [⟨0, .a, 4, .closed⟩] (owning 0 {} ready))) =
        some (some .accepted, true, [⟨0, .a, 4, .opening 1003⟩]) ∧
    left (fun t => (status .bsqA t, t.routes)) (exec (.sourceFree (ra 1) 0)
      (routed [⟨0, .a, 4, .opening 1001⟩] (owning 0 { freeing := true } ready))) =
        some (some .accepted, [⟨0, .a, 4, .opening 1001⟩]) ∧
    told .bsqB (.sourceFree (rb 1) 0) (owning 0 {} ready) = some .denied := by decide

/-- The owner of each kind, the setting by the kind, and the routes with their states. -/
theorem witness_SourceClaimsFollowTheTable_read :
    body .bsqB (.sourceRead (rb 1) 0) (routed [⟨0, .a, 4, .opening 1003⟩] (owning 0 { freeing := true } ready)) =
      some (some (.source .pulse .freeing (.pulse .stopped 0 0 500) true .none [⟨.a, 4, .opening⟩])) ∧
    body .bsqA (.sourceRead (ra 1) 7) (owning 7 { levelCode := 9 } ready) =
      some (some (.source .level .a (.level 9) true .none [])) ∧
    body .bsqA (.sourceRead (ra 1) 1) ready = some (some (.source .pulse .free (.pulse .stopped 0 0 500) true .none [])) := by
  decide

/-- 3600 (36.00 km/h) at 1000 edges a kilometre is 10 Hz: 100000 ticks of 1 us; the bounds are clamped and flagged. -/
theorem witness_PeriodsAreProgrammed :
    Admitted (ra 5) .anyPort true (owning 3 {} ready) ∧
    (let set := fun i => left (fun t => ((t.source 3).mode, (t.source 3).periodTicks, (t.source 3).highTicks,
        (t.source 3).rangeFlag)) (exec i (owning 3 {} ready))
     set (.setSpeed (ra 5) 3 3600 1000) = some (.speed, 100000, 50000, .none) ∧
     set (.setSpeed (ra 5) 3 0 99) = some (.stopped, 0, 0, .belowRange) ∧
     set (.setSpeed (ra 5) 3 40001 65535) = some (.speed, 137, 68, .aboveRange) ∧
     set (.setRpm (ra 4) 3 16001 12) = some (.rpm, 313, 156, .aboveRange) ∧
     set (.setRpm (ra 4) 3 14 1) = some (.stopped, 0, 0, .belowRange) ∧
     set (.setFrequency (ra 5) 3 50000001) = some (.frequency, 20, 10, .aboveRange) ∧
     set (.setFrequency (ra 5) 3 250) = some (.frequency, 4000000, 2000000, .none)) := by
  unfold Admitted
  dsimp only
  refine ⟨?_, ?_, ?_, ?_, ?_, ?_, ?_, ?_⟩ <;> decide

/-- A PWM source keeps its duty at a new frequency. -/
theorem witness_PeriodsAreProgrammed_pwm : left (fun t => ((t.source 0).mode, (t.source 0).highTicks))
    (exec (.setFrequency (ra 5) 0 1000000) (owning 0 { mode := .pwm, duty := 250, periodTicks := 20 } ready)) =
      some (.pwm, 250) := by decide

theorem witness_DutiesAndLevelsAreProgrammed :
    Admitted (ra 3) .anyPort true ready ∧
    [told .bsqA (.setDuty (ra 3) 8 500) ready, told .bsqA (.setSpeed (ra 5) 8 1 1) ready, told .bsqA (.setRpm (ra 4) 8 1 1) ready,
      told .bsqA (.setLevel (ra 5) 255 0) ready] = List.replicate 4 (some .range) ∧
    [told .bsqA (.setDuty (ra 3) 0 500) ready, told .bsqA (.setDuty (ra 3) 0 500) (owning 0 { freeing := true } ready),
      told .bsqA (.setDuty (ra 3) 4 500) (owning 4 {} ready), told .bsqA (.setDuty (ra 3) 0 500) (owning 0 {} ready),
      told .bsqA (.setLevel (ra 5) 3 0) (owning 3 {} ready), told .bsqA (.setSpeed (ra 5) 4 1 1) (owning 4 {} ready),
      told .bsqA (.setRpm (ra 4) 4 1 1) (owning 4 {} ready), told .bsqA (.setFrequency (ra 5) 4 1) (owning 4 {} ready)] =
      [some .denied, some .busy, some .range, some .state, some .range, some .range, some .range, some .range] ∧
    left (fun t => ((t.source 0).mode, (t.source 0).duty, (t.source 0).highTicks, (t.source 0).rangeFlag))
      (exec (.setDuty (ra 3) 0 1001) (owning 0 { mode := .speed, periodTicks := 21, highTicks := 10 } ready)) =
        some (.pwm, 1000, 21, .aboveRange) := by unfold Admitted; decide

/-- 1 mV and 2 mV lie at code 0 and 1, 15997 and 15998 at 3999 and 4000; the operand is signed. -/
theorem witness_DutiesAndLevelsAreProgrammed_levels :
    (let set := fun mv => left (fun t => ((t.source 7).levelCode, (t.source 7).rangeFlag))
      (exec (.setLevel (ra 5) 7 mv) (owning 7 {} ready))
     [set 1, set 2, set 15997, set 15998, set 16001, set 0xFFFFFFFF] =
      [some (0, .none), some (1, .none), some (3999, .none), some (4000, .none), some (4000, .aboveRange),
       some (0, .belowRange)]) := by decide

theorem witness_RoutesFollowTheTables :
    let s := owning 0 {} (inState .contacted)
    let close := fun t pin => told .bsqA (.routeClose (ra 2) 0 pin) t
    Admitted (ra 2) .anyPort true s ∧
    [close ready 47, close s 48, close (inState .contacted) 47, close (owning 0 { freeing := true } s) 47, close s 3,
      close (routed [⟨0, .a, 47, .opening 1001⟩] s) 47, close (routed [⟨1, .a, 47, .closed⟩] s) 47,
      close (routed [⟨0, .a, 4, .closed⟩, ⟨0, .a, 5, .closed⟩, ⟨0, .a, 6, .closed⟩, ⟨0, .a, 7, .closed⟩] s) 47,
      close { s with settling := true, rackTime := 2 } 47, close s 47, close (routed [⟨0, .a, 47, .closed⟩] s) 47,
      close (routed [⟨0, .a, 47, .closing 1001⟩] s) 47] =
      [some .state, some .range, some .denied, some .busy, some .denied, some .busy, some .denied, some .full, some .busy,
       some .accepted, some .ok, some .accepted] := by unfold Admitted; decide

theorem witness_RoutesFollowTheTables_open :
    let s := owning 0 {} (inState .contacted)
    told .bsqA (.routeOpen (ra 2) 8 4) s = some .range ∧ told .bsqA (.routeOpen (ra 2) 0 4) ready = some .denied ∧
    told .bsqA (.routeOpen (ra 2) 0 4) s = some .empty ∧
    left (fun t => (status .bsqA t, t.routes)) (exec (.routeOpen (ra 2) 0 4) (routed [⟨0, .a, 4, .closing 1001⟩] s)) =
      some (some .accepted, [⟨0, .a, 4, .opening 1003⟩]) := by decide

/-- A relay closes, a relay opens, the last relay of a freeing source opens. -/
theorem witness_TransitionsAndPeriodsEnd :
    let done := fun x q => left (fun t => (t.routes, (t.source 0).owner, (t.source 0).freeing))
      (exec (.routeTransitionComplete 0 .a 4) (routed [q] (owning 0 x ready)))
    done {} ⟨0, .a, 4, .closing 1000⟩ = some ([⟨0, .a, 4, .closed⟩], some .a, false) ∧
    done {} ⟨0, .a, 4, .opening 1000⟩ = some ([], some .a, false) ∧
    done { freeing := true } ⟨0, .a, 4, .opening 1000⟩ = some ([], none, false) ∧
    done {} ⟨0, .a, 4, .closing 1001⟩ = some ([⟨0, .a, 4, .closing 1001⟩], some .a, false) := by decide

/-- The last route of a *freeing* source goes, and a parked source of a POWERED bay is unparked beside it. -/
theorem witness_TransitionsAndPeriodsEnd_others :
    left (fun t => ((t.source 0).owner, (t.source 1).owner, (t.source 1).parked)) (exec (.routeTransitionComplete 0 .a 4)
      (routed [⟨0, .a, 4, .opening 1000⟩] ((owning 0 { freeing := true } powered).setSource 1 { owner := some .a }))) =
      some (none, some .a, false) := by decide

/-- The period on the output ends and the programmed one begins; a setting of duty 1000 holds the output. -/
theorem test_pulse_period_end :
    let gen := fun x => left (fun t => (t.source 0).generator) (exec (.pulsePeriodEnd 0) (owning 0 x powered))
    gen { parked := false, periodTicks := 50, highTicks := 20, generator := some (40, 20) } = some (some (50, 20)) ∧
    gen { parked := false, periodTicks := 50, highTicks := 50, generator := some (40, 20) } = some none := by decide

/-! ### The vehicle network -/

/-- A WAKE frame of bay A, class 2, 3 bytes, sent on request. -/
def frame0 : FrameDef :=
  { valid := true, members := 1, ident := 0x123, length := 3, payload := ⟨0x10, 0x20, 0x30, 0, 0, 0, 0, 0⟩, cls := 2 }

/-- The Frame Table with entry 5. -/
def table5 (d : FrameDef) (s : State) : State := { s with frames := [(5, d)] }

/-- The operands of FRAME WRITE: period 4 lies at 5, phase 9 at 4, alive count and checksum at bytes 0 and 2. -/
def frameOps : FrameOps := ⟨1, 1, 0x123, 3, ⟨1, 2, 3, 4, 5, 6, 7, 8⟩, 2, 4, 9, 0, some (0, 1), some 2, 1⟩

theorem witness_FrameTableIsWritten :
    let write := fun s o => told .ssv (.frameWrite (rs 0 24) 255 o) s
    [write ready frameOps, write powered frameOps, write ready { frameOps with members := 4 },
      write ready { frameOps with ident := 2048 }, write ready { frameOps with length := 9 },
      write ready { frameOps with checksum := some 3 }, write ready { frameOps with checksum := some 0 },
      write ready { frameOps with valid := 0, members := 9 }] =
      [some .ok, some .state, some .range, some .range, some .range, some .range, some .range, some .ok] ∧
    left (fun t => ((t.frame 255).period, (t.frame 255).phase, (t.frame 255).mirror, (t.frame 255).payload.b7))
      (exec (.frameWrite (rs 0 24) 255 frameOps) ready) = some (5, 4, true, 8) ∧
    told .ssv (.frameRead (rs 0 1) 255) ready = some .ok := by decide

theorem witness_FrameTableIsWritten_payload :
    let set := fun m i offset l s => told m (.setPayload ⟨m, 0, BitVec.ofNat 8 (2 + l.length)⟩ i offset l) s
    let s := table5 frame0 ready
    [set .bsqA 5 7 [9] s, set .bsqA 5 7 [9, 9] s, set .bsqA 6 0 [9] s, set .bsqB 5 0 [9] s,
      set .bsqA 5 0 [9] (table5 { frame0 with members := 3 } ready), set .ssv 5 0 (List.replicate 8 1) s] =
      [some .ok, some .range, some .range, some .denied, some .denied, some .ok] ∧
    left (fun t => (t.frame 5).payload) (exec (.setPayload (ra 4) 5 6 [8, 9]) s) =
      some ⟨0x10, 0x20, 0x30, 0, 0, 0, 8, 9⟩ := by decide

theorem witness_SendAppendsTheEntry :
    let s := table5 frame0 powered
    let send := fun t n => told .bsqA (.send (ra 2) 5 n) t
    Admitted (ra 2) .anyPort true s ∧
    [send (table5 { frame0 with period := 5 } powered) 1, send s 0, send (table5 { frame0 with members := 2 } powered) 1,
      send (table5 frame0 ready) 1, send (table5 { frame0 with gate := 1 } powered) 1,
      send (s.setNet .a { s.nets.a with portState := .faulted }) 1,
      send (s.setNet .a { s.nets.a with queues := { q2 := List.range 32 |>.map (· + 100) } }) 1, send s 255] =
      [some .range, some .range, some .denied, some .state, some .state, some .state, some .full, some .ok] := by
  unfold Admitted; decide

/-- Queued while the tokens are one short of the cost 47 + 24, seven to send. -/
theorem witness_SendAppendsTheEntry_sent :
    left (fun t => (t.nets.a.tokens, t.nets.a.credit, t.nets.a.queues.q2, (t.nets.a.rt 5).repeatLeft))
      (exec (.send (ra 2) 5 7) ((table5 frame0 powered).setNet .a { powered.nets.a with tokens := 70 })) =
      some (70, 6, [5], 7) ∧
    left (fun t => (t.nets.a.rt 5).repeatLeft) (exec (.send (ra 2) 5 9) ((table5 frame0 powered).setNet .a
      { powered.nets.a with queues := { q2 := [5] }, runtime := [(5, { queued := true, repeatLeft := 2 })] })) = some 9 ∧
    left (fun t => (t.nets.a.portState, t.nets.a.fails)) (exec (.netResume (ra 0))
      (powered.setNet .a { powered.nets.a with portState := .faulted, fails := 16 })) = some (.active, 0) ∧
    told .bsqA (.netResume (ra 0)) powered = some .state ∧ told .bsqA (.netRead (ra 0)) powered = some .ok := by
  dsimp only
  refine ⟨?_, ?_, ?_, ?_, ?_⟩ <;> decide

/-- The entry that starts and the class and credit after it. -/
def selected (n : Net) : Option (Option Nat × Cls × Nat × Int) :=
  let t := ((table5 frame0 powered).setNet .a n).selectIdle .a
  some (t.nets.a.current.map Current.entry, t.nets.a.curClass, t.nets.a.credit, t.nets.a.tokens)

/-- A busy line, class 3 without tokens, the class in turn, the last of its credit, an empty class passed over, tokens
one short of the cost 71. -/
theorem witness_SelectionStartsAFrame :
    let n := { powered.nets.a with queues := { q2 := [5] } }
    [selected { n with lineBusy := true }, selected { n with tokens := -1990, queues := { q3 := [5], q2 := [5] } },
      selected n, selected { n with credit := 1 }, selected { n with queues := { q0 := [5] } },
      selected { n with tokens := 70 }, selected { n with tokens := 71 }, selected { n with queues := {} }] =
      [some (none, .c2, 6, 2000), some (some 5, .c2, 6, -2000), some (some 5, .c2, 5, 1929), some (some 5, .c1, 3, 1929),
       some (some 5, .c2, 6, 1929), some (none, .c2, 6, 70), some (some 5, .c2, 5, 0), some (none, .c2, 6, 2000)] := by
  decide

/-- Alive count 5 in the high nibble of byte 0, the inverted sum of identifier and other bytes in byte 2:
0xFF - (0x23 + 0x01 + 0x50 + 0x20) mod 256 = 0x6B. -/
theorem witness_SelectionStartsAFrame_bytes :
    formBytes { frame0 with alive := some (0, 1), checksum := some 2 } 5 = [0x50, 0x20, 0x6B] := by decide

theorem witness_DueFramesAndTokens :
    let d := { frame0 with period := 10 }
    let s := fun x q => (table5 d powered).setNet .a { powered.nets.a with
      tokens := 0, runtime := [(5, x)], queues := { q2 := q } }
    let due := fun t => left (fun u => (((u.nets.a.rt 5).nextDue, (u.nets.a.rt 5).queued, u.stat .a .overruns)))
      (exec (.frameDue .a 5) t)
    due (s { nextDue := some 1000 } []) = some (some 1010, true, 0) ∧
    due (s { nextDue := some 1000, queued := true } [5]) = some (some 1010, true, 1) ∧
    due (s { nextDue := some 1000 } ((List.range 32).map (· + 100))) = some (some 1010, false, 1) ∧
    due (s { nextDue := some 1001 } []) = some (some 1001, false, 0) ∧
    left (fun t => t.nets.a.tokens) (exec (.tokenAccrual .a) (powered.setNet .a { powered.nets.a with
      tokens := -2000, accruedAt := 999 })) = some (-1700) ∧
    left (fun t => t.nets.a.tokens) (exec (.tokenAccrual .a) (powered.setNet .a { powered.nets.a with
      tokens := 1701, accruedAt := 999 })) = some 2000 := by decide

/-- Entry 5 on the line at an attempt. -/
def sending (n : Nat) (fin : Bool) (on : Bool) (more : Nat) (s : State) : State :=
  (table5 frame0 s).setNet .a { s.nets.a with
    current := some ⟨5, .c2, n, 0x123, [0x10, 0x20, 0x30], on, false, fin, false⟩
    queues := if fin then {} else { q2 := [5] }, runtime := [(5, { queued := !fin, aliveCount := 15, repeatLeft := more })] }

/-- A retry between attempts is due, or delayed by a frame of the unit, in which case the millisecond passes and the next
one asks again (R60, R73). -/
theorem witness_IdleStepIsATick_retry :
    let t := sending 1 false false 0 powered
    t.nets.a.restarts = true ∧ (sending 1 false true 0 powered).nets.a.restarts = false ∧
    (t.dueEvents = [.attemptRestart .a] ∨
      t.dueEvents = [] ∧ left (fun u => (u.rackTime, u.choices)) (step t) = some (1001, 1)) := by
  refine ⟨by decide, by decide, ?_⟩
  cases h : Config.unitDelays 0 1
  · left
    have e : (sending 1 false false 0 powered).restartDue .a = true := by
      show (_ && !Config.unitDelays 0 1) = true
      rw [h]; decide
    unfold State.dueEvents State.dueOfBay
    rw [e]
    decide
  · right
    have e : (sending 1 false false 0 powered).restartDue .a = false := by
      show (_ && !Config.unitDelays 0 1) = false
      rw [h]; decide
    have d : (sending 1 false false 0 powered).dueEvents = [] := by
      unfold State.dueEvents State.dueOfBay
      rw [e]
      decide
    refine ⟨d, ?_⟩
    show left _ (tick (sending 1 false false 0 powered)) = _
    unfold tick
    rw [d]
    decide

theorem witness_AttemptOutcomesFollowTheirRules :
    let go := fun i t => left (fun u => (u.nets.a.current.map Current.attempts, u.nets.a.fails, u.nets.a.queues.q2,
        u.stat .a .txRetries, u.stat .a .txDrops)) (exec i t)
    go (.attemptRestart .a) (sending 1 false false 0 powered) = some (some 2, 0, [5], 0, 0) ∧
    go (.attemptOutcome .a .arbLost) (sending 1 false true 0 powered) = some (some 1, 0, [5], 0, 0) ∧
    go (.attemptOutcome .a .noAck) (sending 3 false true 0 powered) = some (some 3, 0, [5], 1, 0) ∧
    go (.attemptOutcome .a .busError) (sending 4 false true 0 powered) = some (none, 1, [], 0, 1) := by
  dsimp only
  refine ⟨?_, ?_, ?_, ?_⟩ <;> decide

/-- The drop of a frame with one repeat left, and the sixteenth drop in a row. -/
theorem witness_AttemptOutcomesFollowTheirRules_fault :
    left (fun u => (u.nets.a.queues.q2, (u.nets.a.rt 5).repeatLeft, (u.nets.a.rt 5).aliveCount))
      (exec (.attemptOutcome .a .noAck) (sending 4 false true 2 powered)) = some ([5], 1, 0) ∧
    left (fun u => (u.nets.a.portState, u.nets.a.queues.q2, u.attn.bsqA.edges, u.attn.ssv.edges))
      (exec (.attemptOutcome .a .noAck) (sending 4 false true 2 (powered.setNet .a { powered.nets.a with fails := 15 }))) =
        some (.faulted, [], [⟨.netFault, some .a, .none⟩], [⟨.netFault, some .a, .none⟩]) := by decide

/-- The sixteenth drop keeps tokens and rotation and advances the alive count, 15 to 0. -/
theorem witness_AttemptOutcomesFollowTheirRules_fault_kept :
    left (fun u => (u.nets.a.tokens, u.nets.a.curClass, u.nets.a.credit, (u.nets.a.rt 5).aliveCount, u.nets.a.fails))
      (exec (.attemptOutcome .a .noAck) (sending 4 false true 2 (powered.setNet .a { powered.nets.a with
        fails := 15, tokens := 7, curClass := .c1, credit := 2 }))) = some (7, .c1, 2, 0, 16) := by decide

/-- A port that goes OFF drops the frame between attempts and lets the frame on the line finish (R79). -/
theorem test_port_off :
    let go := fun on => left (fun u => (u.nets.a.current.map Current.finishing, u.stat .a .txDrops,
        (u.nets.a.rt 5).aliveCount, u.nets.a.fails, u.nets.a.curClass, u.nets.a.credit)) (exec (.unload (ra 0))
      (sending 2 false on 0 (powered.setNet .a { powered.nets.a with fails := 3, curClass := .c1, credit := 2 })))
    go false = some (none, 1, 0, 3, .c1, 2) ∧ go true = some (some true, 0, 15, 3, .c1, 2) := by
  dsimp only
  refine ⟨?_, ?_⟩ <;> decide

theorem witness_AttemptOutcomesFollowTheirRules_ends :
    let go := fun o t => left (fun u => (u.nets.a.current.map Current.attempts, u.nets.a.fails, u.nets.a.queues.q2,
        u.stat .a .txFrames, u.stat .a .txDrops)) (exec (.attemptOutcome .a o) t)
    go .acked (sending 1 false true 1 (powered.setNet .a { powered.nets.a with fails := 3 })) = some (none, 0, [], 1, 0) ∧
    go .acked (sending 2 true true 0 ready) = some (none, 0, [], 1, 0) ∧
    go .noAck (sending 2 true true 0 ready) = some (none, 0, [], 0, 1) ∧
    go .arbLost (sending 2 true true 0 ready) = some (none, 0, [], 0, 1) := by
  dsimp only
  refine ⟨?_, ?_, ?_, ?_⟩ <;> decide

theorem test_mirror_tx : left (fun t => t.monitor) (exec (.attemptOutcome .a .acked)
    { sending 1 false true 0 powered with
      frames := [(5, { frame0 with mirror := true })], setups := ⟨{ mirrorTx := true }, {}⟩, monitor := ⟨[], 7⟩ }) =
      some ⟨[⟨.tx, .a, 0x123, [0x10, 0x20, 0x30], 1000⟩], 7⟩ := by decide

/-! ### Responses -/

/-- A pinned entry of bay A for identifier 0x100. -/
def pinned : Resp := ⟨.a, 0x100, some ⟨10, 20, ⟨0xFF, 0, 0, 0, 0, 0, 0, 0⟩, ⟨0xAA, 0, 0, 0, 0, 0, 0, 0⟩, true⟩, none, 0, none, 0⟩

/-- The Response Table with entry 3. -/
def table3 (r : Resp) (s : State) : State := { s with responses := [(3, some r)] }

/-- Learned at index 0, counted as unknown; a foreign frame and a frame to a port that is OFF; a mismatch. -/
theorem witness_ReceptionUpdatesTheTable :
    let get := fun s f => left (fun t => (t.respAt 0, t.stat .a .rxFrames, t.stat .a .rxUnknown, t.bays.a.ctx.unknownSeen))
      (exec (.frameReceived .a f) s)
    get testing ⟨false, 0x100, [1, 2]⟩ =
      some (some ⟨.a, 0x100, none, some ⟨⟨1, 2, 0, 0, 0, 0, 0, 0⟩, 2, 1000⟩, 1, none, 0⟩, 1, 1, true) ∧
    get testing ⟨true, 0x100, [1, 2]⟩ = some (none, 0, 1, false) ∧ get ready ⟨false, 0x100, [1]⟩ = some (none, 0, 0, false) ∧
    left (fun t => (t.respAt 3).map fun r => (r.count, r.gaps, r.mismatch)) (exec (.frameReceived .a ⟨false, 0x100, [0xAB]⟩)
      (table3 { pinned with last := some ⟨{}, 0, 985⟩, count := 65535, gaps := some (16, 16) } testing)) =
        some (some (65535, some (15, 16), 1)) := by
  dsimp only
  refine ⟨?_, ?_, ?_, ?_⟩ <;> decide

/-- Older than *age_limit* 2000 by one, and just that old. -/
theorem witness_ReceptionUpdatesTheTable_aging :
    let aged := fun seen now => left (fun t => t.responses.length) (exec .agingPass { testing with
      rackTime := now, responses := [(0, some ⟨.a, 1, none, some ⟨{}, 0, seen⟩, 1, none, 0⟩)] })
    aged 999 3000 = some 0 ∧ aged 1000 3000 = some 1 ∧ aged 0 3001 = some 1 := by decide

/-- The operands of EXPECT for identifier 0x100. -/
def expectOps : ExpectOps := ⟨0x100, 10, 20, ⟨0xFF, 0, 0, 0, 0, 0, 0, 0⟩, ⟨0xAA, 1, 0, 0, 0, 0, 0, 0⟩, 1⟩

theorem witness_ExpectationsArePinned :
    Admitted (ra 23) .anyPort true ready ∧
    left (fun t => (status .bsqA t, t.respAt 0)) (exec (.expect (ra 23) expectOps) ready) = some (some .ok, some pinned) ∧
    told .bsqA (.expect (ra 23) { expectOps with ident := 2048 }) ready = some .range ∧
    told .bsqA (.expect (ra 23) { expectOps with gapLow := 21 }) ready = some .range ∧
    told .bsqA (.expect (ra 23) { expectOps with gapLow := 21, gapHigh := 0 }) ready = some .ok ∧
    left (fun t => (t.respAt 3).map Resp.mismatch) (exec (.expect (ra 23) expectOps)
      (table3 { pinned with mismatch := 9 } ready)) = some (some 0) ∧
    told .bsqA (.unexpect (ra 2) 2048) ready = some .range ∧ told .bsqA (.unexpect (ra 2) 0x100) ready = some .empty ∧
    left (fun t => t.responses) (exec (.unexpect (ra 2) 0x100) (table3 pinned ready)) = some [] := by
  unfold Admitted; decide

set_option maxRecDepth 4000 in
/-- Forty pinned entries of the bay, and 128 entries. -/
theorem witness_ExpectationsArePinned_full :
    let held := fun n bay => (List.range n).map fun i => (i, some { pinned with ident := 0x200 + i, bay := bay })
    told .bsqA (.expect (ra 23) expectOps) { ready with responses := held 40 .a } = some .full ∧
    told .bsqA (.expect (ra 23) expectOps) { ready with responses := held 39 .a } = some .ok ∧
    told .bsqA (.expect (ra 23) expectOps) { ready with responses := held 128 .b } = some .full := by decide

theorem witness_ResponsesAreReadAndJudged :
    let s := table3 pinned testing
    let read := fun sel w t => told .bsqA (.responseRead (ra 3) sel w) t
    Admitted (ra 3) .anyPort true s ∧
    [read 0 128 s, read 1 2048 s, read 2 0 s, read 0 127 s, read 0 3 s, read 1 0x100 s,
      read 0 3 (table3 { pinned with bay := .b } testing)] =
      [some .range, some .range, some .range, some .empty, some .ok, some .ok, some .denied] ∧
    (let check := fun sel w t => told .bsqA (.checkResponse (ra 3) sel w) t
     [check 0 3 (table3 pinned powered), check 0 128 s, check 0 4 s, check 0 3 (table3 { pinned with expectation := none } testing),
      check 0 3 s] = [some .state, some .range, some .empty, some .empty, some .ok]) := by unfold Admitted; decide

/-- Each condition alone at its bound, one past it, and none of them. -/
theorem witness_ResponsesAreReadAndJudged_flags :
    let judge := fun r => left (fun t => t.vlg.log.head?.map fun x => match x with
      | .step y => (y.verdict, y.flags.mask)
      | .unit _ => (.error, 0)) (exec (.checkResponse (ra 3) 0 3) (table3 r testing))
    let seen := fun g ms n => { pinned with last := some ⟨{}, 0, 1000 - ms⟩, count := 2, gaps := some g, mismatch := n }
    judge pinned = some (some (.fail, 0x10)) ∧ judge (seen (10, 20) 20 0) = some (some (.pass, 0)) ∧
    judge (seen (9, 20) 20 0) = some (some (.fail, 0x20)) ∧ judge (seen (10, 21) 20 0) = some (some (.fail, 0x40)) ∧
    judge (seen (10, 20) 21 0) = some (some (.fail, 0x80)) ∧ judge (seen (10, 20) 20 1) = some (some (.fail, 0x100)) := by
  decide

set_option maxRecDepth 4000 in
theorem witness_ResponsesAreReadAndJudged_full :
    told .bsqA (.checkResponse (ra 3) 0 3) (full (table3 pinned testing)) = some .full ∧
    told .bsqA (.checkResponse (ra 3) 0 3) { table3 pinned testing with vlg := { stepsWritten := ⟨65535, 0⟩ } } = some .full := by
  decide

theorem witness_ResponsesAreReadAndJudged_monitor :
    Admitted (rs 0 0) .station false ready ∧ told .ssv (.monitorPop (rs 0 0)) ready = some .empty ∧
    left (fun t => (status .ssv t, t.monitor)) (exec (.monitorPop (rs 0 0))
      { ready with monitor := ⟨[⟨.rx, .b, 1, [], 5⟩, ⟨.rx, .a, 2, [], 6⟩], 3⟩ }) =
        some (some .ok, ⟨[⟨.rx, .a, 2, [], 6⟩], 3⟩) := by unfold Admitted; decide

/-! ### The Measurement Unit -/

/-- The claims in the order A, B, station, the claim queue and the hold timer. -/
def claims (x y z : Claim) (w : List Master) (t : Option Time) (s : State) : State :=
  { s with meu := { s.meu with claims := ⟨x, y, z⟩, waiters := w, holdTimer := t } }

/-- The claims, the queue and what the port was told. -/
def granting (m : Master) (o : Host.Outcome State Fault Refusal) : Option (Option Status × Tri Claim × List Master) :=
  left (fun t => (status m t, t.meu.claims, t.meu.waiters)) o

theorem witness_ClaimsFollowTheTables :
    Admitted (ra 0) .anyPort false powered ∧ told .bsqA (.meuClaim (ra 0)) ready = some .state ∧
    told .bsqA (.meuClaim (ra 0)) (claims (.holding .normal 900 250 false) .none .none [] none powered) = some .state ∧
    granting .bsqA (exec (.meuClaim (ra 0)) powered) =
      some (some .ok, ⟨.holding .normal 1000 250 false, .none, .none⟩, []) ∧
    granting .bsqA (exec (.meuClaim (ra 0)) (claims .none (.holding .normal 751 250 false) .none [] none powered)) =
      some (some .ok, ⟨.waiting .normal 1000, .holding .normal 751 250 false, .none⟩, [.bsqA]) ∧
    granting .bsqA (exec (.meuClaim (ra 0))
      (claims (.waiting .normal 800) (.holding .urgent 900 250 false) .none [.bsqA] none powered)) =
      some (some .ok, ⟨.waiting .urgent 800, .holding .urgent 900 250 false, .none⟩, [.bsqA]) := by
  unfold Admitted
  refine ⟨?_, ?_, ?_, ?_, ?_, ?_⟩ <;> decide

theorem witness_ClaimsFollowTheTables_release :
    told .bsqA (.meuRelease (ra 0)) powered = some .state ∧
    granting .bsqA (exec (.meuRelease (ra 0)) (claims (.waiting .normal 800) (.holding .normal 900 250 false) .none [.bsqA]
      none powered)) = some (some .ok, ⟨.none, .holding .normal 900 250 false, .none⟩, []) ∧
    granting .bsqA (exec (.meuRelease (ra 0)) (measuring sampling powered)) =
      some (some .accepted, ⟨.holding .normal 900 250 true, .none, .none⟩, []) ∧
    granting .bsqA (exec (.meuRelease (ra 0)) (claims (.holding .normal 900 250 false) .none .none [] none powered)) =
      some (some .ok, ⟨.none, .none, .none⟩, []) ∧
    granting .bsqA (exec (.meuRelease (ra 0)) (claims (.revoking .normal 900 250 false) .none .none [] none powered)) =
      some (some .ok, ⟨.revoking .normal 900 250 true, .none, .none⟩, []) ∧
    left (fun t => t.meu.holdTimer) (exec .holdTimerExpiry
      (claims (.holding .normal 750 250 false) .none .none [] (some 1000) powered)) = some none := by
  refine ⟨?_, ?_, ?_, ?_, ?_, ?_⟩ <;> decide

/-- Bay A holds since 750 with limit 250, the station waits URGENT behind bay B. -/
def contended (s : State) : State :=
  claims (.holding .normal 750 250 false) (.waiting .normal 800) (.waiting .urgent 900) [.bsqB, .ssv] (some 1000) s

theorem witness_GrantMovesOnce :
    granting .bsqA (exec (.meuRelease (ra 0)) (contended powered)) =
      some (some .ok, ⟨.none, .waiting .normal 800, .holding .urgent 1000 250 false⟩, [.bsqB]) ∧
    granting .bsqA (exec .holdTimerExpiry (contended powered)) =
      some (none, ⟨.none, .waiting .normal 800, .holding .urgent 1000 250 false⟩, [.bsqB]) ∧
    left (fun t => (t.attn.bsqA.edges, t.attn.ssv.edges)) (exec .holdTimerExpiry (contended powered)) =
      some ([⟨.preempt, some .a, .none⟩], [⟨.result, none, .grant⟩]) ∧
    granting .bsqA (exec .holdTimerExpiry
      { contended powered with meu := { (contended powered).meu with inFlight := some sampling } }) =
      some (none, ⟨.revoking .normal 750 250 false, .waiting .normal 800, .waiting .urgent 900⟩, [.bsqB, .ssv]) ∧
    granting .bsqA (exec (.meuRelease (ra 0)) (claims (.holding .normal 750 250 false) (.waiting .normal 800) .none [.bsqB]
      (some 1000) powered)) = some (some .ok, ⟨.none, .holding .normal 1000 250 false, .none⟩, []) := by
  refine ⟨?_, ?_, ?_, ?_, ?_⟩ <;> decide

/-- A MEU CLAIM that meets a revoke: the station against a NORMAL holder, idle and measuring; bay B against a holder past
its limit of 250 ms and just within it; bay B escalating against a NORMAL holder. -/
theorem witness_GrantMovesOnce_claim :
    let both := fun s : State => { s with bays := ⟨s.bays.a, { ctx := { state := .powered } }⟩ }
    let since := fun t0 => claims (.holding .normal t0 250 false) .none .none [] none (both powered)
    granting .ssv (exec (.meuClaim (rs 0 0)) (since 900)) =
      some (some .ok, ⟨.none, .none, .holding .urgent 1000 250 false⟩, []) ∧
    granting .ssv (exec (.meuClaim (rs 0 0)) (measuring sampling powered)) =
      some (some .ok, ⟨.revoking .normal 900 250 false, .none, .waiting .urgent 1000⟩, [.ssv]) ∧
    granting .bsqB (exec (.meuClaim (rb 0)) (since 750)) =
      some (some .ok, ⟨.none, .holding .normal 1000 250 false, .none⟩, []) ∧
    granting .bsqB (exec (.meuClaim (rb 0)) (since 751)) =
      some (some .ok, ⟨.holding .normal 751 250 false, .waiting .normal 1000, .none⟩, [.bsqB]) ∧
    granting .bsqB (exec (.meuClaim (rb 0)) (claims (.holding .normal 900 250 false) (.waiting .normal 950) .none [.bsqB] none
      (both powered))) = some (some .ok, ⟨.none, .holding .urgent 1000 250 false, .none⟩, []) := by
  dsimp only
  refine ⟨?_, ?_, ?_, ?_, ?_⟩ <;> decide

/-- Operands of MEASURE: V2 at pin 47, no limit. -/
def measureOps : MeasureOps := ⟨0, 47, 0, 256, 0xFFFF⟩

/-- Bay A holds the grant while it tests, with limit record 9 for IL. -/
def metering (s : State) : State :=
  { claims (.holding .normal 900 250 false) .none .none [] none s with limits := [(9, ⟨true, .il, -10, 10, 3⟩)] }

theorem witness_MeasureChecksThenStarts :
    let s := metering testing
    let m := fun o t => told .bsqA (.measure (ra 7) o) t
    let o := { measureOps with range := 2, limit := 9 }
    Admitted (ra 7) .anyPort true s ∧
    [m measureOps testing, m measureOps (claims (.revoking .normal 900 250 false) .none .none [] none testing),
      m measureOps (measuring sampling testing), m { measureOps with range := 5 } s, m { measureOps with channel := 48 } s,
      m { measureOps with range := 4, channel := 16 } s, m o (metering powered), m { o with limit := 256 } s,
      m { o with limit := 8 } s, m { o with range := 3 } s,
      m o { s with vlg := { s.vlg with stepsWritten := ⟨65535, 0⟩ } }, m o s, m measureOps s] =
      [some .denied, some .preempted, some .busy, some .range, some .range, some .range, some .state, some .range,
       some .range, some .range, some .full, some .accepted, some .accepted] := by
  unfold Admitted
  refine ⟨?_, ?_⟩ <;> decide

set_option maxRecDepth 4000 in
theorem witness_MeasureChecksThenStarts_station :
    let s := claims .none .none (.holding .urgent 900 250 false) [] none (inState .safe)
    told .ssv (.measure (rs 1 7) measureOps) s = some .state ∧
    told .ssv (.measure (rs 2 7) { measureOps with limit := 9 }) s = some .range ∧
    told .ssv (.measure (rs 2 7) measureOps) s = some .accepted ∧
    told .bsqA (.measure (ra 7) { measureOps with range := 2, limit := 9 }) (full (metering testing)) = some .full := by
  decide

theorem witness_MeasureChecksThenStarts_taken :
    left (fun t => (t.meu.inFlight, t.meu.sense)) (exec (.measure (ra 7) measureOps) (metering testing)) =
      some (some ⟨.bsqA, .a, .v2, 47, 1, 255, none, .connect, []⟩, some ⟨some (.a, 47), .connecting 1003⟩) ∧
    left (fun t => (t.meu.inFlight, t.vlg.reservations))
      (exec (.measure (ra 7) ⟨2, 99, 65, 0, 9⟩) (metering testing)) =
      some (some ⟨.bsqA, .a, .il, 99, 64, 0, some 9, .sampling, []⟩, [.unit .a, .measure .a]) ∧
    told .bsqA (.resultRead (ra 0)) (measuring sampling testing) = some .pending ∧
    told .bsqA (.resultRead (ra 0)) testing = some .empty ∧ told .bsqA (.meuRead (ra 0)) ready = some .ok ∧
    left (fun t => (status .bsqA t, t.meu.slots.bsqA)) (exec (.resultRead (ra 0)) { testing with meu := { testing.meu with
      slots := ⟨some ⟨.a, .il, 0, 1, 0, none, .aborted .sampling, 5⟩, none, none⟩ } }) = some (some .ok, none) := by decide

theorem witness_MeasurementPhasesPass :
    let v2 := { sampling with range := .v2, phase := .connect, settle := 5, samples := 2 }
    let run := fun i x y => left (fun t => (t.meu.inFlight.map Measurement.phase, t.meu.sense)) (exec i
      { powered with meu := { powered.meu with inFlight := some x, sense := y } })
    run .senseConnectComplete v2 (some ⟨some (.a, 0), .connecting 1000⟩) =
      some (some (.settle 1005), some ⟨some (.a, 0), .connected⟩) ∧
    run .senseConnectComplete { v2 with settle := 0 } (some ⟨some (.a, 0), .connecting 1000⟩) =
      some (some .sampling, some ⟨some (.a, 0), .connected⟩) ∧
    run .senseDisconnectComplete v2 (some ⟨some (.b, 1), .disconnecting 1000⟩) =
      some (some .connect, some ⟨some (.a, 0), .connecting 1003⟩) ∧
    run .senseDisconnectComplete sampling (some ⟨none, .disconnecting 1000⟩) = some (some .sampling, none) ∧
    run .settleEnd { v2 with phase := .settle 1000 } none = some (some .sampling, none) ∧
    run (.sampleTaken 7) { v2 with phase := .sampling } none = some (some .sampling, none) := by
  dsimp only
  refine ⟨?_, ?_, ?_, ?_, ?_, ?_⟩ <;> decide

/-- A limit measurement of IL in bay A completes: code 0x2000 is 125 mA of 500, above the limit of 10. -/
theorem witness_LastSampleCompletes :
    let x := { sampling with limit := some 9 }
    let s := { measuring x (metering testing) with vlg := { reservations := [.unit .a, .measure .a] } }
    left (fun t => (t.meu.inFlight, t.vlg.reservations, t.bays.a.ctx.counts, t.stat .a .measurements)) (exec (.sampleTaken 0x2000) s)
      = some (none, [.unit .a], ⟨0, 0, 1, 0⟩, 1) ∧
    left (fun t => t.vlg.log) (exec (.sampleTaken 0x2000) s) = some [.step
      ⟨.a, 1, 0, .measure, .fail, some 125, some 9, none, { uncal := true }, 1000⟩] ∧
    left (fun t => t.attn.bsqA.edges) (exec (.sampleTaken 0x2000) s) = some [⟨.result, some .a, .complete⟩] := by
  dsimp only
  refine ⟨?_, ?_, ?_⟩ <;> decide

/-- A revoke that waited for the measurement, and a release that waited for it; a code at the upper rail. -/
theorem witness_LastSampleCompletes_ends :
    let run := fun c code => left (fun t => (t.meu.claims.bsqA, t.attn.bsqA.edges, t.stat .a .overranges))
      (exec (.sampleTaken code) { powered with meu := { powered.meu with claims := ⟨c, .none, .none⟩, inFlight := some sampling } })
    run (.revoking .normal 900 250 false) 0 =
      some (.none, [⟨.preempt, some .a, .none⟩, ⟨.result, some .a, .complete⟩], 0) ∧
    run (.holding .normal 900 250 true) 0x7FFF = some (.none, [⟨.result, some .a, .complete⟩], 1) ∧
    run (.holding .normal 900 250 false) 0x7FFE =
      some (.holding .normal 900 250 false, [⟨.result, some .a, .complete⟩], 0) := by
  dsimp only
  refine ⟨?_, ?_, ?_⟩ <;> decide

/-- The grant passes on at the last sample: from a REVOKING requester and from one whose release was pending. -/
theorem witness_LastSampleCompletes_passes :
    let run := fun c => left (fun t => (t.meu.claims.ssv, t.meu.holdTimer, t.attn.bsqA.edges, t.attn.ssv.edges))
      (exec (.sampleTaken 0) { powered with meu := { powered.meu with
        claims := ⟨c, .none, .waiting .urgent 950⟩, waiters := [.ssv], inFlight := some sampling } })
    run (.revoking .normal 900 250 false) = some (.holding .urgent 1000 250 false, some 1250,
      [⟨.preempt, some .a, .none⟩, ⟨.result, some .a, .complete⟩], [⟨.result, none, .grant⟩]) ∧
    run (.holding .normal 900 250 true) = some (.holding .urgent 1000 250 false, some 1250,
      [⟨.result, some .a, .complete⟩], [⟨.result, none, .grant⟩]) := by
  dsimp only
  refine ⟨?_, ?_⟩ <;> decide

/-- Means of 1 and 2 and of -1 and -2 round away from zero; a gain near 4 saturates; -32768 is a rail. -/
theorem witness_MeasuredValuesAreJudged :
    roundInt 3 2 = 2 ∧ roundInt (-3) 2 = -2 ∧ roundInt 1 3 = 0 ∧
    measured [1, 2] .v20 {} false = (1, {}) ∧ measured [0xFFFF, 0xFFFE] .v20 {} false = (-1, {}) ∧
    measured [0x4000] .ih ⟨65535, 0⟩ true = (5000, ⟨false, true, true⟩) ∧
    measured [0x8000] .v2 {} false = (-2000, ⟨true, false, false⟩) := by decide

/-- The bounds 0 and 100 with guard 10: outside, at the bounds, at the guard bands; a guard wider than half the width. -/
theorem witness_MeasuredValuesAreJudged_limits :
    let v := fun g e => limitVerdict ⟨true, .v2, 0, 100, g⟩ e {}
    [v 10 (-1), v 10 0, v 10 9, v 10 10, v 10 90, v 10 91, v 10 100, v 10 101, v 99 49, v 99 50, v 99 51] =
      [.fail, .marginal, .marginal, .pass, .pass, .marginal, .marginal, .fail, .marginal, .pass, .marginal] ∧
    limitVerdict ⟨true, .v2, 0, 100, 10⟩ 50 ⟨true, false, false⟩ = .error := by decide

theorem witness_CalibrationAndLimitsAreStored :
    Admitted (rs 2 9) .station true ready ∧
    left (fun t => (t.calRec .b .lum, t.cal.uncal)) (exec (.calWrite (rs 2 9) 4 0x10000 0x80000000) ready) =
      some (⟨65535, -32768⟩, true) ∧
    left (fun t => t.calRec .b .v2) (exec (.calWrite (rs 2 9) 0 0xFFFFFFFF 0x8000) ready) = some ⟨0, 32767⟩ ∧
    told .ssv (.calWrite (rs 2 9) 5 0 0) ready = some .range ∧ told .ssv (.calRead (rs 2 1) 5) ready = some .range ∧
    told .ssv (.calRead (rs 2 1) 4) ready = some .ok := by unfold Admitted; decide

/-- Operands of LIMIT WRITE for IL, bounds -10 and 10, guard -1. -/
def limitOps : LimitOps := ⟨1, 2, 0xFFFFFFF6, 10, 0xFFFFFFFF⟩

theorem witness_CalibrationAndLimitsAreStored_limits :
    let s := measuring { sampling with limit := some 9 } (metering testing)
    let write := fun i o => told .ssv (.limitWrite (rs 0 15) i o) s
    [write 9 { limitOps with valid := 0 }, write 8 { limitOps with valid := 0 }, write 9 { limitOps with range := 5 },
      write 9 { limitOps with high := 0xFFFFFFF5 }, write 9 { limitOps with range := 3 }, write 9 limitOps, write 8 limitOps] =
      [some .busy, some .ok, some .range, some .range, some .busy, some .ok, some .ok] ∧
    left (fun t => t.limit 8) (exec (.limitWrite (rs 0 15) 8 limitOps) s) = some ⟨true, .il, -10, 10, 0⟩ ∧
    body .ssv (.limitWrite (rs 0 15) 8 { limitOps with valid := 0 }) s = some (some (.limit ⟨false, .v2, 0, 0, 0⟩ (some 0))) ∧
    body .ssv (.limitRead (rs 0 1) 8) s = some (some (.limit ⟨false, .v2, 0, 0, 0⟩ none)) ∧
    body .ssv (.limitRead (rs 0 1) 9) s = some (some (.limit ⟨true, .il, -10, 10, 3⟩ (some 3))) ∧
    told .ssv (.limitRead (rs 0 1) 255) ready = some .ok := by decide

/-! ### The Verdict Log -/

theorem witness_LogRequestsFollowTheirRules :
    Admitted (ra 5) .bayPorts false testing ∧ told .bsqA (.noteStep (ra 1) 0 none) powered = some .state ∧
    told .bsqA (.noteStep (ra 1) 4 none) testing = some .range ∧
    told .bsqA (.noteStep (ra 1) 0 none) { testing with vlg := { stepsWritten := ⟨65535, 0⟩ } } = some .full ∧
    left (fun t => (t.vlg.log, t.bays.a.ctx.counts, t.vlg.stepsWritten.a)) (exec (.noteStep (ra 5) 3 (some 0xFFFFFFFF)) testing) =
      some ([.step ⟨.a, 1, 0, .sequencer, .error, some (-1), none, none, {}, 1000⟩], ⟨0, 0, 0, 1⟩, 1) := by
  unfold Admitted; decide

/-- A VISUAL prompt of bay A. -/
def visual : Prompt := ⟨4, .visual, ⟨true, true, false⟩, 0, none, false, .bsqA⟩

/-- An ACKNOWLEDGE prompt of bay A: YES, 500 ms, page 40, blinking, posted by the station. -/
def acknowledge : Prompt := ⟨5, .acknowledge, ⟨true, false, false⟩, 500, some 40, true, .ssv⟩

/-- Bay A's prompts. -/
def asking (f : Front) (w : List Prompt) (s : State) : State := s.setPru .a { s.prus.a with front := f, waiting := w }

set_option maxRecDepth 4000 in
/-- An empty log, a place that no front waits for, a place that one front waits for, a place that both wait for. -/
theorem witness_LogRequestsFollowTheirRules_pop :
    told .ssv (.logPop (rs 0 0)) ready = some .empty ∧ told .bsqA (.noteStep (ra 1) 0 none) (full testing) = some .full ∧
    left (fun t => (status .ssv t, t.vlg.log.length)) (exec (.logPop (rs 0 0)) (full ready)) = some (some .ok, 127) ∧
    left (fun t => (t.vlg.reservations, t.prus.a.front)) (exec (.logPop (rs 0 0)) (asking (.pending visual) [] (full ready))) =
      some ([.prompt .a], .active visual 1000 none) := by
  refine ⟨?_, ?_, ?_, ?_⟩ <;> decide

set_option maxRecDepth 4000 in
/-- Both fronts PENDING at the last place: the clause's hypotheses. -/
theorem witness_LogRequestsFollowTheirRules_both :
    let s := (asking (.pending visual) [] (full ready)).setPru .b { front := .pending { visual with poster := .bsqB } }
    (s.prus.get .a).front = .pending visual ∧ (s.prus.get .b).front = .pending { visual with poster := .bsqB } ∧
    s.vlg.log.length = 128 ∧ s.vlg.reservations.length = 0 ∧ s.vlg.stepsReserved .a = 0 := by
  refine ⟨?_, ?_, ?_, ?_, ?_⟩ <;> decide

/-- Bay A has no further step: VISUAL prompts are refused for good (R180). -/
def exhausted (s : State) : State := { s with vlg := { s.vlg with stepsWritten := ⟨65535, 0⟩ } }

set_option maxRecDepth 4000 in
/-- A place handed to a PENDING front that step admission refuses: CANCELLED at once, the prompt behind it promoted. -/
theorem witness_LogRequestsFollowTheirRules_refused :
    left (fun t => (t.prus.a.front, t.prus.a.slot, t.attn.bsqA.edges)) (exec (.logPop (rs 0 0))
      (asking (.pending visual) [acknowledge] (exhausted (full ready)))) =
      some (.active acknowledge 1000 (some 1500), some ⟨4, .visual, .bsqA, .cancelled, 0, none, 0⟩,
        [⟨.prompt, some .a, .none⟩]) := by decide

theorem witness_LogRequestsFollowTheirRules_setup :
    (let set := fun n => left (fun t => t.vlg.threshold) (exec (.logSetup (rs 0 1) n) ready)
     [set 0, set 1, set 128, set 255] = [some 1, some 1, some 128, some 128]) ∧
    (let read := fun i n => told .ssv (.statsRead (rs 1 3) i n 0) ready
     [read 0 16, read 15 1, read 15 2, read 0 0, read 16 1, read 0 17] =
      [some .ok, some .ok, some .range, some .range, some .range, some .range]) ∧
    left (fun t => (t.stat .a .strayKeys, t.stat .a .safeEntries)) (exec (.statsRead (rs 1 3) 14 1 1)
      ((ready.count .a .strayKeys).count .a .safeEntries)) = some (0, 1) := by decide

/-! ### The display -/

/-- A master's cursor. -/
def cursor (m : Master) (c : Nat) (s : State) : State := s.setAccess m { s.access.get m with cursor := c }

/-- The region of bay B begins at cell 800; a write wraps within it. -/
theorem witness_CellsAreWrittenAndRead :
    Admitted (rb 2) .anyPort false ready ∧ Memory.wf ready.odc.codes ∧
    left (fun t => (t.odc.code 1599, t.odc.code 800, t.access.bsqB.cursor))
      (exec (.displayWrite (rb 2) [0x41, 0x42]) (cursor .bsqB 799 ready)) = some (0x41, 0x42, 1) ∧
    left (fun t => (t.odc.code 2047, t.odc.code 0)) (exec (.displayWrite (rs 0 2) [0x41, 0x42]) (cursor .ssv 2047 ready)) =
      some (0x41, 0x42) ∧
    told .bsqA (.setCursor (ra 2) 799) ready = some .ok ∧ told .bsqA (.setCursor (ra 2) 800) ready = some .range ∧
    told .ssv (.setCursor (rs 0 2) 2047) ready = some .ok ∧ told .ssv (.setCursor (rs 0 2) 2048) ready = some .range := by
  unfold Admitted; decide

/-- The latch comes first, the last cell read stays in it. -/
theorem witness_CellsAreWrittenAndRead_read :
    left (fun t => ((t.ports.get .bsqA).answer.map Answer.body, t.access.bsqA))
      (exec (.displayRead (ra 1) 2) { ready with odc := { codes := [(0, 0x41), (1, 0x42)] } }) =
      some (some (.codes [0x20, 0x41] 2), ⟨2, 0x42, none⟩) ∧
    told .bsqA (.displayRead (ra 1) 0) ready = some .range ∧ told .bsqA (.displayRead (ra 1) 64) ready = some .ok ∧
    told .bsqA (.displayRead (ra 1) 65) ready = some .range ∧ told .bsqA (.attrSet (ra 2) 3 1) ready = some .range ∧
    told .bsqA (.attrClear (ra 2) 0 65) ready = some .range := by decide

theorem witness_CellsAreWrittenAndRead_attributes :
    left (fun t => (t.odc.attr 0, t.odc.attr 1, t.access.bsqA.cursor)) (exec (.attrSet (ra 2) 2 1)
      { ready with odc := { attrs := [(0, ⟨true, false, false⟩)] } }) = some (⟨true, false, true⟩, {}, 1) ∧
    left (fun t => t.odc.attrs) (exec (.attrClear (ra 2) 0 64)
      { ready with odc := { attrs := [(0, ⟨true, false, false⟩), (63, ⟨true, false, true⟩)] } }) =
      some [(63, ⟨false, false, true⟩)] := by decide

theorem witness_ClearsWindowsAndGlyphsFollowTheirRules :
    Admitted (ra 2) .anyPort false ready ∧
    (let clear := fun m n => told m (.clearArea ⟨m, 0, 2⟩ n) ready
     [clear .bsqA 0, clear .bsqA 800, clear .bsqA 801, clear .ssv 2048, clear .ssv 2049] =
      [some .range, some .accepted, some .range, some .accepted, some .range]) ∧
    left (fun t => t.access.bsqA.clear) (exec (.clearArea (ra 2) 65) (cursor .bsqA 790 ready)) = some (some ⟨790, 65, 1001⟩) ∧
    told .bsqA (.setCursor (ra 2) 0) (ready.setAccess .bsqA { clear := some ⟨0, 1, 1001⟩ }) = some .busy ∧
    told .bsqA (.setWindow (ra 2) 799) ready = some .ok ∧ told .bsqA (.setWindow (ra 2) 800) ready = some .range ∧
    told .bsqA (.setWindow (ra 2) 0) (inState .safe) = some .state := by unfold Admitted; decide

/-- A block of 64 cells from 790 wraps at 800; one cell is left, which the next block clears and ends. -/
theorem witness_ClearsWindowsAndGlyphsFollowTheirRules_blocks :
    let s := fun l => ({ ready with odc := { codes := [(53, 0x41), (54, 0x42), (799, 0x43)] } }).setAccess .bsqA
      { cursor := 790, clear := some ⟨if l = 65 then 790 else 54, l, 1000⟩ }
    left (fun t => (t.odc.codes, t.access.bsqA.clear, t.access.bsqA.cursor)) (exec (.clearBlock .bsqA) (s 65)) =
      some ([(54, 0x42)], some ⟨54, 1, 1001⟩, 790) ∧
    left (fun t => (t.odc.code 54, t.access.bsqA.clear, t.access.bsqA.cursor)) (exec (.clearBlock .bsqA) (s 1)) =
      some (0x20, none, 55) := by decide

theorem witness_ClearsWindowsAndGlyphsFollowTheirRules_screen :
    told .ssv (.stationScreen (rs 0 3) 1 2048) ready = some .range ∧
    left (fun t => t.odc.screen) (exec (.stationScreen (rs 0 3) 1 2047) ready) = some (some 2047) ∧
    left (fun t => t.odc.screen) (exec (.stationScreen (rs 0 3) 0 2048) ready) = some none ∧
    told .ssv (.glyphLoad (rs 0 9) 0xDF {}) ready = some .range ∧
    left (fun t => t.odc.glyphs) (exec (.glyphLoad (rs 0 9) 0xE0 ⟨0xFF, 0, 0, 0, 0, 0, 0, 0x40⟩) ready) =
      some [(0xE0, ⟨0x3F, 0, 0, 0, 0, 0, 0, 0⟩)] ∧
    left (fun t => t.odc.blinkOn) (exec .blinkPhaseChange { ready with rackTime := 1499 }) = some true ∧
    left (fun t => t.odc.blinkOn) (exec .blinkPhaseChange { ready with rackTime := 1500 }) = some false := by decide

/-! ### Prompts and keys -/

/-- Operands of PROMPT: ACKNOWLEDGE, YES, 99 ms, no page. -/
def promptOps : PromptOps := ⟨5, 0, 1, 99, 0xFFFF, 1⟩

theorem witness_PromptsJoinTheQueue :
    let p := fun s o => told .bsqA (.prompt (ra 10) o) s
    let vis : PromptOps := ⟨4, 2, 3, 0, 0xFFFF, 0⟩
    Admitted (ra 10) .anyPort true powered ∧
    [p ready promptOps, p powered { promptOps with kind := 3 }, p powered vis, p powered { promptOps with allowed := 0 },
      p powered { promptOps with kind := 1, allowed := 8 }, p powered { promptOps with allowed := 3 },
      p testing { vis with allowed := 7 }, p powered { promptOps with page := 800 },
      p (asking (.active acknowledge 900 none) [visual, visual, visual, visual] testing) promptOps,
      p { testing with vlg := { stepsWritten := ⟨65535, 0⟩ } } vis,
      p (asking (.active acknowledge 900 none) [visual, visual, visual] testing) promptOps, p testing vis,
      p powered { promptOps with page := 799 }] =
      [some .state, some .range, some .state, some .range, some .range, some .range, some .range, some .range, some .full,
       some .full, some .ok, some .ok, some .ok] := by
  unfold Admitted
  refine ⟨?_, ?_⟩ <;> decide

/-- A timeout of 99 lies at 100; a VISUAL prompt takes a reservation. -/
theorem witness_PromptsJoinTheQueue_front :
    left (fun t => (t.prus.a.front, t.windows.a.promptBlink)) (exec (.prompt (ra 10) promptOps) powered) =
      some (.active ⟨5, .acknowledge, ⟨true, false, false⟩, 100, none, true, .bsqA⟩ 1000 (some 1100), true) ∧
    left (fun t => (t.prus.a.front, t.vlg.reservations)) (exec (.prompt (ra 10) ⟨4, 2, 3, 0, 0xFFFF, 0⟩) testing) =
      some (.active visual 1000 none, [.unit .a, .prompt .a]) ∧
    left (fun t => t.prus.a.waiting.length) (exec (.prompt (ra 10) promptOps)
      (asking (.active acknowledge 900 none) [visual, visual, visual] testing)) = some 4 := by decide

theorem witness_PromptsJoinTheQueue_read :
    let slot : AnswerSlot := ⟨5, .acknowledge, .bsqA, .yes, 9, none, 0⟩
    Admitted (ra 0) .anyPort true powered ∧ told .bsqA (.promptRead (ra 0)) powered = some .ok ∧
    told .bsqA (.answerRead (ra 0)) powered = some .empty ∧
    left (fun t => (status .bsqA t, t.prus.a.slot)) (exec (.answerRead (ra 0)) (powered.setPru .a { slot := some slot })) =
      some (some .ok, none) := by unfold Admitted; decide

/-- Nothing to cancel, another identifier, the active prompt by its identifier with one waiting behind it. -/
theorem witness_PromptsJoinTheQueue_cancel :
    told .bsqA (.promptCancel (ra 0) none) powered = some .empty ∧
    told .bsqA (.promptCancel (ra 1) (some 6)) (asking (.active acknowledge 900 none) [] powered) = some .empty ∧
    left (fun t => (status .bsqA t, t.prus.a.front, t.prus.a.slot.map AnswerSlot.elapsed, t.windows.a))
      (exec (.promptCancel (ra 1) (some 5)) (asking (.active acknowledge 900 (some 1400)) [{ acknowledge with timeout := 0 }]
        powered)) = some (some .ok, .active { acknowledge with timeout := 0 } 1000 none, some 100, ⟨40, none, true, false⟩) ∧
    left (fun t => t.attn.ssv.edges) (exec (.promptCancel (ra 0) none) (asking (.active acknowledge 900 none) [] powered)) =
      some [⟨.prompt, some .a, .none⟩] := by
  refine ⟨?_, ?_, ?_, ?_⟩ <;> decide

/-- The prompt behind the cancelled or answered one is VISUAL, and step admission refuses it: both leave the queue. -/
theorem witness_promotion_refused :
    let s := asking (.active acknowledge 900 (some 1400)) [visual] (exhausted testing)
    let out := fun i => left (fun t => (t.prus.a.front, t.prus.a.slot.map fun x => (x.promptId, x.answer, x.missed))) (exec i s)
    out (.promptCancel (ra 0) none) = some (.empty, some (4, .cancelled, 1)) ∧
    out (.keyPress .a .yes) = some (.empty, some (4, .cancelled, 1)) := by
  dsimp only
  refine ⟨?_, ?_⟩ <;> decide

/-- NO answers a VISUAL prompt: a failed step; the expiry of a timer; a key at the activation time, one that the prompt
does not allow, and the ABORT key of a VACANT bay are stray. -/
theorem witness_KeysAnswerThePrompt :
    let s := fun since => asking (.active visual since none) [] { testing with vlg := { reservations := [.unit .a, .prompt .a] } }
    let stray := fun i t => left (fun u => (u.stat .a .strayKeys, u.prus.a.slot.isSome)) (exec i t)
    left (fun t => (t.prus.a.front, t.bays.a.ctx.counts, t.vlg.reservations, t.prus.a.slot))
      (exec (.keyPress .a .no) (s 999)) =
      some (.empty, ⟨0, 0, 1, 0⟩, [.unit .a], some ⟨4, .visual, .bsqA, .no, 1, some 0, 0⟩) ∧
    left (fun t => (t.prus.a.slot, t.stat .a .promptTimeouts)) (exec (.promptTimerExpiry .a)
      (asking (.active acknowledge 500 (some 1000)) [] powered)) =
      some (some ⟨5, .acknowledge, .ssv, .timeout, 500, none, 0⟩, 1) ∧
    stray (.keyPress .a .no) (s 1000) = some (1, false) ∧ stray (.keyPress .a .again) (s 999) = some (1, false) ∧
    stray (.keyPress .a .yes) powered = some (1, false) ∧ stray (.abortKey .a) (inState .vacant) = some (1, false) := by
  dsimp only
  refine ⟨?_, ?_, ?_, ?_, ?_, ?_⟩ <;> decide

/-! ### The bytes of a select period (R190, R192, R197, R207) -/

/-- A limit result lies in the order of R116: status, bay, operands, value, flags, limit, verdict, step index, time. -/
theorem test_result_bytes :
    (Body.result ⟨.a, .v20, 3, 16, 5, some 9, .done (-2) { sat := true } (some .fail) (some 7), 0x01020304⟩).bytes =
      [0, 1, 1, 3, 16, 0, 5, 0xFF, 0xFF, 0xFF, 0xFE, 2, 1, 9, 1, 2, 1, 0, 7, 1, 2, 3, 4] ∧
    (Body.result ⟨.b, .il, 0, 1, 0, none, .aborted .sampling, 9⟩).bytes =
      [1, 2, 2, 0, 1, 0, 0, 0, 0, 2, 0, 0, 0, 9] := by decide

/-- The code table holds the codes of R197, each once. -/
theorem test_code_table : knownCodes = codeTable.map (fun row => row.1.toNat) := by decide

/-- Request bytes of every family, written out from R190 and R197, with the command they make. -/
theorem test_request_bytes :
    commandOf .bsqA [0x01, 0, 0] = .statusRead (ra 0) ∧
    commandOf .ssv [0x13, 2, 6, 2, 0x41, 0x42, 0x01, 0x07, 0x22] =
      .start (rs 2 6) ⟨2, [0x41, 0x42], 0x0107, none, some true, none⟩ ∧
    commandOf .bsqA [0x13, 0, 5, 1, 0x41, 0, 7, 0x41] = .start (ra 5) ⟨1, [0x41], 7, some false, none, none⟩ ∧
    commandOf .bsqB [0x22, 0, 5, 3, 0x0E, 0x10, 0x03, 0xE8] = .setSpeed (rb 5) 3 3600 1000 ∧
    commandOf .ssv [0x32, 0, 4, 5, 6, 8, 9] = .setPayload (rs 0 4) 5 6 [8, 9] ∧
    commandOf .bsqA [0x41, 0, 2, 0x01, 0x23] = .unexpect (ra 2) 0x123 ∧
    commandOf .bsqA [0x52, 0, 7, 2, 47, 65, 0x01, 0x00, 0xFF, 0xFF] = .measure (ra 7) ⟨2, 47, 65, 256, 0xFFFF⟩ ∧
    commandOf .bsqA [0x60, 0, 5, 3, 0xFF, 0xFF, 0xFF, 0xFE] = .noteStep (ra 5) 3 (some 0xFFFFFFFE) ∧
    commandOf .bsqA [0x77, 0, 3, 1, 0x07, 0xFF] = .stationScreen (ra 3) 1 2047 ∧
    commandOf .bsqA [0x80, 0, 10, 5, 2, 3, 0, 0, 0x01, 0xF4, 0xFF, 0xFF, 1] = .prompt (ra 10) ⟨5, 2, 3, 500, 0xFFFF, 1⟩ ∧
    commandOf .ssv [0x90, 0, 0] = .calSave (rs 0 0) := by
  refine ⟨?_, ?_, ?_, ?_, ?_, ?_, ?_, ?_, ?_, ?_, ?_⟩ <;> decide

/-- A well-formed request with its bytes, and a byte more than announced. -/
theorem witness_RequestBytesMakeTheCommand :
    let i := Instr.calWrite (rs 2 9) 4 0x00010002 0xFFFFFFFF
    i.wf = true ∧ (rs 2 9).len.toNat = 9 ∧
    i.requestBytes = some [0x55, 2, 9, 4, 0, 1, 0, 2, 0xFF, 0xFF, 0xFF, 0xFF] ∧
    commandOf .ssv [0x55, 2, 9, 4, 0, 1, 0, 2, 0xFF, 0xFF, 0xFF, 0xFF, 0] = i ∧
    commandOf .ssv [0x55, 2, 9, 4, 0, 1, 0, 2, 0xFF, 0xFF, 0xFF] = .selRisesEarly .ssv := by
  dsimp only
  refine ⟨?_, ?_, ?_, ?_, ?_⟩ <;> decide

set_option maxRecDepth 4000 in
/-- Lengths of 250 and 251 with a code outside the table. -/
theorem witness_RequestBytesMakeTheCommand_faults :
    commandOf .bsqA (0x04 :: 0 :: 250 :: List.replicate 250 0) = .unknownRequest (ra 250) 0x04 ∧
    commandOf .bsqA (0x04 :: 0 :: 251 :: List.replicate 251 0) = .operandLengthOver250 (ra 251) 0x04 := by decide

/-- SDO in the select period of a STATUS READ: its request, status and length, the first byte, one past the last. -/
theorem witness_AnswersAreShiftedOut :
    left (fun t => [0, 2, 3, 4, 5, 16, 24].map (t.sdo .bsqA 0)) (exec (.statusRead (ra 0)) ready) =
      some [0xFF, 0xFF, 0x00, 19, 0x00, 0x00, 0xFF] ∧
    left (fun t => [0, 3, 4, 5].map (t.sdo .bsqB 0)) (exec (.statusRead (ra 0)) ready) =
      some [0xFF, 0xFF, 0xFF, 0xFF] := by decide

/-! ### Outputs -/

/-- ATN with an edge, with a full log and its threshold, and with a monitor record. -/
theorem test_atn :
    (ready.atnLow .bsqA, (ready.raise .bsqA ⟨.bayState, some .a, .none⟩).atnLow .bsqA,
      ({ ready with monitor := ⟨[⟨.rx, .b, 1, [], 5⟩], 0⟩ }).atnLow .ssv,
      ({ ready with monitor := ⟨[⟨.rx, .b, 1, [], 5⟩], 0⟩ }).atnLow .bsqA) = (false, true, true, false) := by decide

/-- A running source, a source that holds its high level, a level source of 36 mV, a parked one. -/
theorem test_drive :
    (owning 0 { parked := false, generator := some (40, 20) } ready).drive 0 = .pulses 40 20 ∧
    (owning 0 { parked := false, periodTicks := 40, highTicks := 40 } ready).drive 0 = .high ∧
    (owning 7 { parked := false, levelCode := 9 } ready).drive 7 = .millivolts 36 ∧
    (owning 7 { levelCode := 9 } ready).drive 7 = .millivolts 0 := by decide

/-- A user glyph with its left dot lit, shown at row 8 of the panel (window B): inverse, and in the window's off phase. -/
theorem test_dots :
    let s := fun (inverse on blinks : Bool) => { ready with
      odc := { codes := [(800, 0xE0)], glyphs := [(0xE0, ⟨0x20, 0, 0, 0, 0, 0, 0, 0⟩)], attrs := [(800, ⟨false, inverse, false⟩)]
               blinkOn := on }
      windows := ⟨{}, { safeBlink := blinks }⟩ }
    (s false true true).cellAt 8 0 = 800 ∧
    [(s false true true).dotAt 8 0 0 0, (s false true true).dotAt 8 0 0 1, (s true true true).dotAt 8 0 0 0,
      (s false false true).dotAt 8 0 0 0, (s false false false).dotAt 8 0 0 0] = [true, false, false, false, true] := by
  decide

/-- The 21 bytes of a STEP record and the answer to STATUS READ right after reset. -/
theorem test_layout :
    (StepRec.bytes ⟨.b, 0x0102, 3, .measure, .marginal, some (-2), some 9, none, { sat := true }, 0x00010203⟩) =
      [0x01, 2, 0x01, 0x02, 0, 3, 0, 1, 3, 0xFF, 0xFF, 0xFF, 0xFE, 9, 0, 0, 2, 0, 1, 2, 3] ∧
    (left (fun t => (t.ports.get .bsqA).answer.map Answer.bytes) (exec (.statusRead (ra 0)) State.reset)) =
      some (some ([0, 19, 0, 0, 0, 0, 0, 0, 0, 0, 0, 1, 0, 0, 0, 0, 0, 1, 0, 0, 0])) := by decide

/-! ### The laws -/

/-- Both bays VACANT at rack time 7, the store READY, bay A's unit about to be inserted. -/
def waitingForUnit : State := { State.reset with
  rackTime := 7, settling := false, store := ⟨.ready, none⟩, pending := [.unitPresentRising .a] }

/-- The premises of the invariants hold together: a state that satisfies every law and answers a next state. -/
theorem witness_invariants : Sound waitingForUnit ∧
    left (fun t => t.bayState .a) (step waitingForUnit) = some .loaded := by
  refine ⟨?_, by decide⟩
  have hb : ∀ bay, waitingForUnit.bays.get bay = { ctx := { state := .vacant } } := by intro bay; cases bay <;> rfl
  have hn : ∀ bay, waitingForUnit.nets.get bay = {} := by intro bay; cases bay <;> rfl
  have hp : ∀ bay, waitingForUnit.prus.get bay = {} := by intro bay; cases bay <;> rfl
  have hs : ∀ i, waitingForUnit.source i = {} := fun _ => rfl
  have hc : ∀ m, waitingForUnit.claim m = .none := by intro m; cases m <;> rfl
  have hst : ∀ bay, waitingForUnit.bayState bay = .vacant := by intro bay; cases bay <;> rfl
  have ha : ∀ m, waitingForUnit.attn.get m = {} := by intro m; cases m <;> rfl
  have hx : ∀ m, waitingForUnit.access.get m = {} := by intro m; cases m <;> rfl
  have hw : ∀ bay, waitingForUnit.windows.get bay = {} := by intro bay; cases bay <;> rfl
  have hu : ∀ bay, waitingForUnit.setups.get bay = {} := by intro bay; cases bay <;> rfl
  have hq : ∀ c, ({} : Queues).get c = [] := by intro c; cases c <;> rfl
  have hm : waitingForUnit.meu.inFlight = none := rfl
  have hk : waitingForUnit.meu.waiters = [] := rfl
  have ht : waitingForUnit.meu.holdTimer = none := rfl
  have hl : waitingForUnit.vlg = {} := rfl
  have ho : waitingForUnit.odc = {} := rfl
  constructor
  · intro bay
    rw [hb]
    constructor <;> simp [waitOf, BayState.inFixture]
  · intro _ bay
    rw [hb]
    cases bay <;> constructor <;> simp [BayState.inFixture, waitingForUnit, State.reset, Per.get]
  · constructor
    · intro i; simp [hs, ParkedBy]
    · intro i; simp [hs]
    · intro i; simp [hs]
    all_goals simp [waitingForUnit, State.reset, State.routesOf, State.source, Table.read]
  · intro bay
    constructor <;> simp [hn, hst, hu, hq]
  · constructor
    · simp [waitingForUnit, State.reset]
    · simp [waitingForUnit, State.reset]
    · simp [waitingForUnit, State.reset]
    · intro bay; cases bay <;> decide
    · decide
  · constructor <;> simp [hc, hm, hk, ht, State.measuring, Claim.granted]
  · constructor
    · decide
    · intro bay; simp [hst, hl]
    · intro bay; simp [hl, State.limitMeasuring, hm]
    · intro bay; simp [hl, State.visualActive, hp]
    · intro bay; cases bay <;> decide
    · intro bay; simp [hst]
    · simp [hm]
  · intro bay
    constructor <;> simp [hp, hw, Front.prompts]
  · constructor
    · simp [ho]
    · simp [ho]
    · simp [ho]
    · simp [ho]
    · intro m; cases m <;> decide
    · simp [hx]
    · simp [hw]
    · simp [hw, hst]
  · constructor
    case runtime => intro bay; rw [hn]; decide
    case stats => intro bay; cases bay <;> decide
    all_goals decide
  · constructor
    · intro bay; rw [hu]; constructor <;> decide
    · intro i; rw [hs]; constructor <;> decide
    · simp [waitingForUnit, State.reset]
    · simp [waitingForUnit, State.reset]
    · decide
    · intro bay; cases bay <;> simp [waitingForUnit, State.reset, Per.get]
    · decide
    · simp [waitingForUnit, State.reset]
  · constructor <;> simp [ha]

end Sys2Proof.Tests
end

section
/-! The Source Pool's requests: what the rules of SOURCE CLAIM, SOURCE FREE, SOURCE READ and of a setting answer, case by
case (R36, R37, R44 to R49, R52), and the statements that they settle. -/

namespace Sys2Proof.Machine

/-! ### The requests as they are served -/

theorem exec_sourceClaim (r : Req) (source : Byte) (s : State) :
    exec (.sourceClaim r source) s = serve r (Gate.fixed .anyPort true 1 r) (sourceClaimRule r.bay source) s := rfl

theorem exec_sourceFree (r : Req) (source : Byte) (s : State) :
    exec (.sourceFree r source) s = serve r (Gate.fixed .anyPort true 1 r) (sourceFreeRule r.bay source) s := rfl

theorem exec_sourceRead (r : Req) (source : Byte) (s : State) :
    exec (.sourceRead r source) s = serve r (Gate.fixed .anyPort false 1 r) (sourceReadRule source) s := rfl

theorem exec_setSpeed (r : Req) (source : Byte) (v k : Half) (s : State) :
    exec (.setSpeed r source v k) s = serve r (Gate.fixed .anyPort true 5 r)
      (settingRule r.bay source true fun x => some (x.setSpeed v.toNat k.toNat)) s := rfl

theorem exec_setRpm (r : Req) (source : Byte) (n : Half) (p : Byte) (s : State) :
    exec (.setRpm r source n p) s = serve r (Gate.fixed .anyPort true 4 r)
      (settingRule r.bay source true fun x => some (x.setRpm n.toNat p.toNat)) s := rfl

theorem exec_setFrequency (r : Req) (source : Byte) (f : Full) (s : State) :
    exec (.setFrequency r source f) s = serve r (Gate.fixed .anyPort true 5 r)
      (settingRule r.bay source true fun x => some (x.setFrequency f.toNat)) s := rfl

section Admitted
variable {r : Req} {source : Byte} {s : State}

/-- The answers of SOURCE CLAIM (R36). -/
theorem exec_sourceClaim_of_admitted (h : Admitted r .anyPort true s) (hl : r.len = 1) :
    exec (.sourceClaim r source) s = .next ((sourceClaimRule r.bay source s).1.reply r.port
      (sourceClaimRule r.bay source s).2) := by
  rw [exec_sourceClaim, serve_fixed _ h (by simp [hl])]

/-- The answers of SOURCE FREE (R37). -/
theorem exec_sourceFree_of_admitted (h : Admitted r .anyPort true s) (hl : r.len = 1) :
    exec (.sourceFree r source) s = .next ((sourceFreeRule r.bay source s).1.reply r.port
      (sourceFreeRule r.bay source s).2) := by
  rw [exec_sourceFree, serve_fixed _ h (by simp [hl])]

/-- The answers of SOURCE READ (R52). -/
theorem exec_sourceRead_of_admitted (h : Admitted r .anyPort false s) (hl : r.len = 1) :
    exec (.sourceRead r source) s = .next ((sourceReadRule source s).1.reply r.port (sourceReadRule source s).2) := by
  rw [exec_sourceRead, serve_fixed _ h (by simp [hl])]

end Admitted

/-! ### Operands -/

theorem sourceOf_eq_some {x : Byte} {i : Fin 8} (h : x.toNat = i.val) : sourceOf x = some i := by
  simp [sourceOf, h]

theorem sourceOf_eq_none {x : Byte} (h : 8 ≤ x.toNat) : sourceOf x = none := by
  simp [sourceOf, h]

theorem isPulse_iff {i : Fin 8} : isPulse i = true ↔ i.val < 4 := by simp [isPulse]

/-- The model clamps by comparing, the statements by `max` and `min`. -/
theorem clampNat_eq_bounded {lo hi : Nat} (h : lo ≤ hi) (n : Nat) : clampNat lo hi n = bounded lo hi n := by
  unfold clampNat bounded
  split
  · omega
  · split <;> omega

theorem bounded_le {lo hi : Nat} (h : lo ≤ hi) (n : Nat) : bounded lo hi n ≤ hi := by
  unfold bounded; omega

theorem le_bounded (lo hi n : Nat) : lo ≤ bounded lo hi n := le_max_left _ _

theorem roundNat_eq_nearest (n d : Nat) : roundNat n d = nearest n d := rfl

/-- A quotient of at least `k` rounds to at least `k`. -/
theorem le_nearest {k n d : Nat} (hd : 0 < d) (h : k * d ≤ n) : k ≤ nearest n d := by
  rw [nearest, Nat.le_div_iff_mul_le (by omega)]
  calc k * (2 * d) = 2 * (k * d) := by ring
    _ ≤ 2 * n + d := by omega

/-! ### Reports (R44, R52) -/

theorem settingReport_eq_settingShown (i : Fin 8) (x : Source) : x.settingReport i = settingShown i x := by
  simp [Source.settingReport, settingShown, isPulse_iff]

theorem routesOf_isEmpty_iff {s : State} {i : Fin 8} :
    (s.routesOf i).isEmpty = true ↔ ∀ q ∈ s.routes, q.source ≠ i := by
  simp [State.routesOf]

theorem routesOf_isEmpty_eq_false {s : State} {i : Fin 8} (h : ∃ q ∈ s.routes, q.source = i) :
    (s.routesOf i).isEmpty = false := by
  rw [← Bool.not_eq_true, routesOf_isEmpty_iff]
  obtain ⟨q, hq, hi⟩ := h
  exact fun hn => hn q hq hi

/-! ### The end of a claim, case by case (R37) -/

theorem freeSource_of_unrouted {s : State} {i : Fin 8} (h : (s.routesOf i).isEmpty = true) :
    s.freeSource i = s.setSource i {} := by
  simp only [State.freeSource, h, if_true]

theorem freeSource_of_freeing {s : State} {i : Fin 8} (h : (s.routesOf i).isEmpty = false)
    (hf : (s.source i).freeing = true) : s.freeSource i = s := by
  simp [State.freeSource, h, hf]

theorem freeSource_of_routed {s : State} {i : Fin 8} (h : (s.routesOf i).isEmpty = false)
    (hf : (s.source i).freeing = false) :
    s.freeSource i = (s.openRoutes fun q => q.source = i).setSource i { s.source i with freeing := true } := by
  simp [State.freeSource, h, hf]

/-- Evaluating *parked* again leaves a FREE source FREE. -/
theorem source_repark_of_default {s : State} (hw : Table.wf {} s.sources) {i : Fin 8} (h : s.source i = {}) :
    s.repark.source i = {} := by
  rw [source_repark hw, h, repark_default]

/-- The relays of a source that R42 commands open. -/
theorem openRoutes_source_routes (s : State) (i : Fin 8) :
    (s.openRoutes fun q => q.source = i).routes = s.routes.map fun q =>
      if q.source = i ∧ (∀ e, q.state ≠ .opening e) then { q with state := .opening (s.rackTime + 3) } else q := by
  refine List.map_congr_left fun q _ => ?_
  by_cases h : q.source = i
  · simp only [h, decide_true, if_true, true_and, Route.command_eq]
  · simp [h]

/-! ### SOURCE CLAIM (R36) -/

section Claim
variable {bay : Bay} {source : Byte} {i : Fin 8} {s : State}

theorem sourceClaimRule_of_safe (h : s.bayState bay = .safe) : sourceClaimRule bay source s = (s, bare .state) := by
  simp [sourceClaimRule, h]

theorem sourceClaimRule_out_of_range (h : s.bayState bay ≠ .safe) (hx : 8 ≤ source.toNat) :
    sourceClaimRule bay source s = (s, bare .range) := by
  simp [sourceClaimRule, h, sourceOf_eq_none hx]

theorem sourceClaimRule_of_free (h : s.bayState bay ≠ .safe) (hx : source.toNat = i.val)
    (ho : (s.source i).owner = none) : sourceClaimRule bay source s =
      ((s.setSource i { s.source i with owner := some bay }).repark, bare .ok) := by
  simp [sourceClaimRule, h, sourceOf_eq_some hx, ho]

theorem sourceClaimRule_of_own (h : s.bayState bay ≠ .safe) (hx : source.toNat = i.val)
    (ho : (s.source i).owner = some bay) : sourceClaimRule bay source s =
      (s, bare (if (s.source i).freeing then .busy else .ok)) := by
  simp only [sourceClaimRule, h, sourceOf_eq_some hx, ho, if_false, ne_eq, not_true_eq_false]
  split <;> rfl

theorem sourceClaimRule_of_other (h : s.bayState bay ≠ .safe) (hx : source.toNat = i.val)
    (ho : (s.source i).owner = some (otherBay bay)) : sourceClaimRule bay source s = (s, bare .denied) := by
  simp [sourceClaimRule, h, sourceOf_eq_some hx, ho]

end Claim

/-- A claim taken on a FREE source: it has its owner and is evaluated by R34. -/
theorem claimed_source {s : State} (hw : Table.wf {} s.sources) (bay : Bay) (i : Fin 8) :
    let u := s.setSource i { s.source i with owner := some bay }
    (u.repark.source i).owner = some bay ∧ Reparked u u.repark := by
  have hu := wf_setSource hw i { s.source i with owner := some bay }
  refine ⟨?_, reparked_repark hu⟩
  rw [(repark_source_owner hu i).1, source_setSource hw, if_pos rfl]

/-! ### SOURCE FREE (R37) -/

section Free
variable {bay : Bay} {source : Byte} {i : Fin 8} {s : State}

theorem sourceFreeRule_out_of_range (hx : 8 ≤ source.toNat) : sourceFreeRule bay source s = (s, bare .range) := by
  simp [sourceFreeRule, sourceOf_eq_none hx]

theorem sourceFreeRule_of_not_own (hx : source.toNat = i.val) (ho : (s.source i).owner ≠ some bay) :
    sourceFreeRule bay source s = (s, bare .denied) := by
  simp [sourceFreeRule, sourceOf_eq_some hx, ho]

theorem sourceFreeRule_of_own (hx : source.toNat = i.val) (ho : (s.source i).owner = some bay) :
    sourceFreeRule bay source s =
      ((s.freeSource i).repark, bare (if (s.routesOf i).isEmpty then .ok else .accepted)) := by
  simp only [sourceFreeRule, sourceOf_eq_some hx, ho, ne_eq, not_true_eq_false, if_false]
  split <;> rfl

end Free

/-- A source freed without routes: it takes the values of R38, and the other owners are kept. -/
theorem freed_source {s : State} (hw : Table.wf {} s.sources) {i : Fin 8} (h : (s.routesOf i).isEmpty = true) :
    let t := (s.freeSource i).repark
    t = { s with sources := t.sources } ∧ t.source i = {} ∧
      ∀ j, j ≠ i → (t.source j).owner = (s.source j).owner ∧ (t.source j).freeing = (s.source j).freeing := by
  have hu := wf_freeSource hw i
  refine ⟨by rw [freeSource_of_unrouted h]; rfl, source_repark_of_default hu ?_, fun j hj => ?_⟩
  · rw [source_freeSource hw, if_pos rfl, if_pos h]
  · obtain ⟨howner, hfreeing⟩ := repark_source_owner hu j
    rw [howner, hfreeing, source_freeSource hw, if_neg hj]
    exact ⟨rfl, rfl⟩

/-- A source freed with routes keeps its owner, is *freeing*, and its routes open (R42). -/
theorem freeing_source {s : State} (hw : Table.wf {} s.sources) {i : Fin 8} (h : (s.routesOf i).isEmpty = false)
    (hf : (s.source i).freeing = false) :
    let t := (s.freeSource i).repark
    t = { s with sources := t.sources, routes := t.routes } ∧ (t.source i).owner = (s.source i).owner ∧
      (t.source i).freeing = true ∧ t.routes = s.routes.map fun q =>
        if q.source = i ∧ (∀ e, q.state ≠ .opening e) then { q with state := .opening (s.rackTime + 3) } else q := by
  obtain ⟨howner, hfreeing⟩ := repark_source_owner (wf_freeSource hw i) i
  rw [source_freeSource hw, if_pos rfl, h] at howner hfreeing
  refine ⟨by rw [freeSource_of_routed h hf]; rfl, howner, hfreeing, ?_⟩
  rw [freeSource_of_routed h hf]
  exact openRoutes_source_routes s i

/-! ### SOURCE READ (R52) -/

/-- What SOURCE READ answers for a source S0 to S7 (R52). -/
theorem sourceReadRule_of_source {source : Byte} {i : Fin 8} {s : State} (hx : source.toNat = i.val) :
    sourceReadRule source s = (s, okWith (.source (kindOfSource i) (s.source i).ownerReport
      (settingShown i (s.source i)) (s.source i).parked (s.source i).rangeFlag ((s.routesOf i).map Route.report))) := by
  simp only [sourceReadRule, sourceOf_eq_some hx, settingReport_eq_settingShown]

theorem sourceReadRule_out_of_range {source : Byte} {s : State} (hx : 8 ≤ source.toNat) :
    sourceReadRule source s = (s, bare .range) := by
  simp [sourceReadRule, sourceOf_eq_none hx]

/-! ### Settings (R44, R45) -/

theorem programmed_eq_running (x : Source) : x.programmed = running x := rfl

/-- A setting that leaves *parked* and the running period alone reaches the output as R45 says. -/
theorem program_eq_taken {x y : Source} (hp : y.parked = x.parked) (hg : y.generator = x.generator) :
    y.program = taken x y := by
  obtain ⟨_, _, _, _, _, _, _, park, _, gen⟩ := y
  obtain rfl : park = x.parked := hp
  obtain rfl : gen = x.generator := hg
  cases hx : x.parked <;> cases hgen : x.generator <;>
    simp [Source.program, taken, hx, hgen, programmed_eq_running]

/-- A setting that passes the checks of R44. -/
theorem settingRule_of_passed {bay : Bay} {source : Byte} {pulse : Bool} {f : Source → Option (Source × List Echo)}
    {s : State} {i : Fin 8} {y : Source} {echo : List Echo} (hx : source.toNat = i.val)
    (ho : (s.source i).owner = some bay) (hf : (s.source i).freeing = false) (hk : isPulse i = pulse)
    (hy : f (s.source i) = some (y, echo)) (hp : y.parked = (s.source i).parked)
    (hg : y.generator = (s.source i).generator) :
    settingRule bay source pulse f s = (s.setSource i (taken (s.source i) y), settingAnswer i echo y) := by
  simp [settingRule, sourceOf_eq_some hx, ho, hf, hk, hy, program_eq_taken hp hg, settingReport_eq_settingShown,
    settingAnswer, okWith]

/-- A period setting that passes the checks of R44, served. -/
theorem serve_setting {r : Req} {source : Byte} {n : Nat} {f : Source → Source × List Echo} {i : Fin 8} {s : State}
    {y : Source} {echo : List Echo} (h : Admitted r .anyPort true s) (hl : r.len.toNat = n)
    (hx : source.toNat = i.val) (hi : i.val < 4) (ho : (s.source i).owner = some r.bay)
    (hf : (s.source i).freeing = false) (hy : f (s.source i) = (y, echo)) (hp : y.parked = (s.source i).parked)
    (hg : y.generator = (s.source i).generator) :
    serve r (Gate.fixed .anyPort true n r) (settingRule r.bay source true fun x => some (f x)) s =
      .next ((s.setSource i (taken (s.source i) y)).reply r.port (settingAnswer i echo y)) := by
  rw [serve_fixed _ h hl, settingRule_of_passed hx ho hf (isPulse_iff.2 hi) (congrArg some hy) hp hg]

/-! ### Programmed periods (R46 to R49) -/

section Period
variable (mode : SourceMode) (zero : Prop) [Decidable zero] (flag : RangeFlag) (t high : Nat) (x : Source)

@[simp] theorem periodSet_parked : (periodSet mode zero flag t high x).parked = x.parked := by
  unfold periodSet; split <;> [rfl; (split <;> rfl)]

@[simp] theorem periodSet_generator : (periodSet mode zero flag t high x).generator = x.generator := by
  unfold periodSet; split <;> [rfl; (split <;> rfl)]

end Period

/-- With a period of at least 20 ticks the lower limit of R49 does not act. -/
theorem setPeriod_eq_periodSet {zero : Prop} [Decidable zero] {t : Nat} (ht : ¬ zero → 20 ≤ t) (mode : SourceMode)
    (high : Nat → Nat) (down up : Bool) (x : Source) :
    x.setPeriod mode high zero down up t = periodSet mode zero (clampFlag down up) t (high t) x := by
  by_cases hz : zero
  · simp [Source.setPeriod, periodSet, hz]
  · have h20 : ¬ t < 20 := by have := ht hz; omega
    simp [Source.setPeriod, periodSet, hz, h20]

/-- 40 000 by 65 535 is the largest divisor of R46, a period of 137 ticks. -/
theorem speed_period_ge {v k : Nat} (hv : v ≠ 0) (hv' : v ≤ 40000) (hk : 100 ≤ k) (hk' : k ≤ 65535) :
    20 ≤ nearest 360000000000 (v * k) := by
  have hle : v * k ≤ 40000 * 65535 := Nat.mul_le_mul hv' hk'
  exact le_nearest (Nat.mul_pos (by omega) (by omega)) (by omega)

/-- 16 000 by 12 is the largest divisor of R47, a period of 313 ticks. -/
theorem rpm_period_ge {n p : Nat} (hn : n ≠ 0) (hn' : n ≤ 16000) (hp : 1 ≤ p) (hp' : p ≤ 12) :
    20 ≤ nearest 60000000 (n * p) := by
  have hle : n * p ≤ 16000 * 12 := Nat.mul_le_mul hn' hp'
  exact le_nearest (Nat.mul_pos (by omega) (by omega)) (by omega)

/-- 500 kHz is the highest frequency of R48, a period of 20 ticks. -/
theorem frequency_period_ge {f : Nat} (hf : f ≠ 0) (hf' : f ≤ 50000000) : 20 ≤ nearest 1000000000 f :=
  le_nearest (by omega) (by omega)

/-- SET SPEED's setting; 16 bits hold no *K* above its maximum. -/
theorem setSpeed_eq (v : Nat) {k : Nat} (hk : k ≤ 65535) (x : Source) : x.setSpeed v k =
    (periodSet .speed (bounded 0 40000 v = 0)
      (if 40000 < v then .aboveRange else if k < 100 then .belowRange else .none)
      (nearest 360000000000 (bounded 0 40000 v * bounded 100 65535 k))
      (nearest 360000000000 (bounded 0 40000 v * bounded 100 65535 k) / 2) x,
     [⟨2, bounded 0 40000 v⟩, ⟨2, bounded 100 65535 k⟩]) := by
  have ht : bounded 0 40000 v ≠ 0 → 20 ≤ nearest 360000000000 (bounded 0 40000 v * bounded 100 65535 k) := fun hv =>
    speed_period_ge hv (bounded_le (by omega) v) (le_bounded _ _ _) (bounded_le (by omega) k)
  have hk' : ¬ 65535 < k := by omega
  simp only [Source.setSpeed, clampNat_eq_bounded (by omega : 0 ≤ 40000), clampNat_eq_bounded (by omega : 100 ≤ 65535),
    roundNat_eq_nearest, setPeriod_eq_periodSet ht, clampFlag, clampedDown, clampedUp, squareHigh]
  simp [hk']

/-- SET RPM's setting. -/
theorem setRpm_eq (n p : Nat) (x : Source) : x.setRpm n p =
    (periodSet .rpm (bounded 0 16000 n = 0)
      (if 16000 < n ∨ 12 < p then .aboveRange else if p < 1 then .belowRange else .none)
      (nearest 60000000 (bounded 0 16000 n * bounded 1 12 p))
      (nearest 60000000 (bounded 0 16000 n * bounded 1 12 p) / 2) x,
     [⟨2, bounded 0 16000 n⟩, ⟨1, bounded 1 12 p⟩]) := by
  have ht : bounded 0 16000 n ≠ 0 → 20 ≤ nearest 60000000 (bounded 0 16000 n * bounded 1 12 p) := fun hn =>
    rpm_period_ge hn (bounded_le (by omega) n) (le_bounded _ _ _) (bounded_le (by omega) p)
  simp only [Source.setRpm, clampNat_eq_bounded (by omega : 0 ≤ 16000), clampNat_eq_bounded (by omega : 1 ≤ 12),
    roundNat_eq_nearest, setPeriod_eq_periodSet ht, clampFlag, clampedDown, clampedUp, squareHigh]
  simp

/-- SET FREQUENCY's setting: a source in PWM keeps its mode and its duty (R48). -/
theorem setFrequency_eq (f : Nat) (x : Source) : x.setFrequency f =
    (if x.mode = .pwm then
        periodSet .pwm (bounded 0 50000000 f = 0) (if 50000000 < f then .aboveRange else .none)
          (nearest 1000000000 (bounded 0 50000000 f))
          (nearest (nearest 1000000000 (bounded 0 50000000 f) * x.duty) 1000) x
      else
        periodSet .frequency (bounded 0 50000000 f = 0) (if 50000000 < f then .aboveRange else .none)
          (nearest 1000000000 (bounded 0 50000000 f)) (nearest 1000000000 (bounded 0 50000000 f) / 2) x,
     [⟨4, bounded 0 50000000 f⟩]) := by
  have ht : bounded 0 50000000 f ≠ 0 → 20 ≤ nearest 1000000000 (bounded 0 50000000 f) := fun hf =>
    frequency_period_ge hf (bounded_le (by omega) f)
  simp only [Source.setFrequency, clampNat_eq_bounded (by omega : 0 ≤ 50000000), roundNat_eq_nearest,
    setPeriod_eq_periodSet ht, clampFlag, clampedDown]
  by_cases hm : x.mode = .pwm
  · simp [hm, dutyHigh, roundNat_eq_nearest]
  · simp [hm, squareHigh]

/-! ### The statements -/

/-- Settles O26: the cases of R36 and R37 one by one, then the report of R52. -/
theorem sourceClaimsFollowTheTable : Obligations.SourceClaimsFollowTheTable := by
  unfold Obligations.SourceClaimsFollowTheTable
  constructor
  · intro r source s h hl hw
    rw [exec_sourceClaim_of_admitted h hl, exec_sourceFree_of_admitted h hl]
    refine ⟨fun hsafe => ?safe, fun hx => ⟨fun hst => ?claimRange, ?freeRange⟩, fun i hx => ?source⟩
    case safe => rw [sourceClaimRule_of_safe hsafe]; rfl
    case claimRange => rw [sourceClaimRule_out_of_range hst hx]; rfl
    case freeRange => rw [sourceFreeRule_out_of_range hx]; rfl
    case source =>
      refine ⟨fun hst => ⟨fun ho => ?free, fun ho hf => ?own, fun ho hf => ?busy, fun ho => ?other⟩, fun ho => ?denied,
        fun ho hr => ?freed, fun ho hr hf => ?freeing, fun ho hr hf => ?again⟩
      case free =>
        obtain ⟨howner, hparked⟩ := claimed_source hw r.bay i
        rw [sourceClaimRule_of_free hst hx ho]
        exact ⟨_, rfl, rfl, howner, hparked⟩
      case own => rw [sourceClaimRule_of_own hst hx ho, hf]; rfl
      case busy => rw [sourceClaimRule_of_own hst hx ho, hf]; rfl
      case other => rw [sourceClaimRule_of_other hst hx ho]; rfl
      case denied => rw [sourceFreeRule_of_not_own hx ho]; rfl
      case freed =>
        have hu : (s.routesOf i).isEmpty = true := routesOf_isEmpty_iff.2 hr
        rw [sourceFreeRule_of_own hx ho, hu]
        exact ⟨_, rfl, freed_source hw hu⟩
      case freeing =>
        have hu : (s.routesOf i).isEmpty = false := routesOf_isEmpty_eq_false hr
        rw [sourceFreeRule_of_own hx ho, hu, ← ho]
        exact ⟨_, rfl, freeing_source hw hu hf⟩
      case again =>
        have hu : (s.routesOf i).isEmpty = false := routesOf_isEmpty_eq_false hr
        rw [sourceFreeRule_of_own hx ho, hu, freeSource_of_freeing hu hf]
        exact ⟨_, rfl, rfl, reparked_repark hw⟩
  · intro r source s h hl
    rw [exec_sourceRead_of_admitted h hl]
    constructor
    · intro hx
      rw [sourceReadRule_out_of_range hx]; rfl
    · intro i hx x owner shown
      have howner : x.ownerReport = owner := by
        simp only [Source.ownerReport, owner]
        rcases x.owner with _ | bay
        · rfl
        · cases x.freeing <;> cases bay <;> rfl
      have hshown : Route.report = shown := by
        funext q
        simp only [Route.report, shown]
        cases q.state <;> rfl
      have hkind : kindOfSource i = if i.val < 4 then .pulse else .level := by simp [kindOfSource, isPulse_iff]
      rw [sourceReadRule_of_source hx, ← howner, ← hshown, ← hkind]
      rfl

/-- Settles O27: each setting is the period that R49 gives (`setSpeed_eq`, `setRpm_eq`, `setFrequency_eq`). -/
theorem periodsAreProgrammed : Obligations.PeriodsAreProgrammed := by
  unfold Obligations.PeriodsAreProgrammed
  intro r source v k p f i s h _ hx hi ho hf
  refine ⟨fun hl => ?speed, fun hl => ?rpm, fun hl => ?frequency⟩
  case speed =>
    rw [exec_setSpeed]
    exact serve_setting h (by simp [hl]) hx hi ho hf (setSpeed_eq _ (by omega) _) (by simp) (by simp)
  case rpm =>
    rw [exec_setRpm]
    exact serve_setting h (by simp [hl]) hx hi ho hf (setRpm_eq _ _ _) (by simp) (by simp)
  case frequency =>
    rw [exec_setFrequency]
    exact serve_setting h (by simp [hl]) hx hi ho hf (setFrequency_eq _ _) (by split <;> simp) (by split <;> simp)

end Sys2Proof.Machine
end

section
/-! The arithmetic of a measurement, its limit test, and the requests of the Calibration Set and the Limit Table: what
each rounds, bounds, answers and stores (R2, R123 to R137), and the statements that they settle. -/

namespace Sys2Proof.Machine

/-! ### Rounded quotients (R2, R124) -/

theorem roundInt_of_nonneg {n : Int} (h : 0 ≤ n) (d : Int) : roundInt n d = (2 * n + d) / (2 * d) := if_pos h

/-- Rounding is the same on both sides of 0. -/
theorem roundInt_neg {d : Int} (hd : 0 < d) (n : Int) : roundInt (-n) d = -roundInt n d := by
  have hhalf : d / (2 * d) = 0 := Int.ediv_eq_zero_of_lt (by omega) (by omega)
  unfold roundInt
  rcases lt_trichotomy n 0 with hn | rfl | hn
  · rw [if_pos (by omega), if_neg (by omega), neg_neg]
  · simp [hhalf]
  · rw [if_neg (by omega), if_pos (by omega), neg_neg]

/-- `q` times `d` is a nearest multiple of `d` to `n`, and of two equally near the one farther from 0. -/
def NearestAway (n d q : Int) : Prop :=
  2 * (q * d - n) ≤ d ∧ 2 * (n - q * d) ≤ d ∧ (2 * (q * d - n) = d → 0 < n) ∧ (2 * (n - q * d) = d → n < 0)

theorem NearestAway.neg {n d q : Int} (h : NearestAway n d q) : NearestAway (-n) d (-q) := by
  unfold NearestAway at *
  rw [Int.neg_mul]
  omega

/-- Of a dividend that is not negative: the quotient of R2 is the floor of `n / d + 1 / 2`. -/
theorem nearestAway_roundInt_of_nonneg {n d : Int} (hd : 0 < d) (hn : 0 ≤ n) : NearestAway n d (roundInt n d) := by
  rw [roundInt_of_nonneg hn]
  have hdiv := Int.mul_ediv_add_emod (2 * n + d) (2 * d)
  have hnonneg := Int.emod_nonneg (2 * n + d) (by omega : 2 * d ≠ 0)
  have hlt := Int.emod_lt_of_pos (2 * n + d) (by omega : 0 < 2 * d)
  have hzero : n = 0 → (2 * n + d) / (2 * d) = 0 := by
    rintro rfl
    exact Int.ediv_eq_zero_of_lt (by omega) (by omega)
  generalize (2 * n + d) / (2 * d) = q at *
  have hq : 2 * d * q = 2 * (q * d) := by ring
  have hpos : 2 * (q * d - n) = d → 0 < n := by
    intro hhalf
    rcases hn.eq_or_lt' with h0 | hn
    · rw [hzero h0] at hhalf
      omega
    · exact hn
  exact ⟨by omega, by omega, hpos, by omega⟩

/-- The rounded quotient is the nearest integer, halves away from 0. -/
theorem nearestAway_roundInt {d : Int} (hd : 0 < d) (n : Int) : NearestAway n d (roundInt n d) := by
  rcases le_total 0 n with hn | hn
  · exact nearestAway_roundInt_of_nonneg hd hn
  · have h := (nearestAway_roundInt_of_nonneg hd (by omega : 0 ≤ -n)).neg
    rwa [roundInt_neg hd, neg_neg, neg_neg] at h

/-- A quotient of at most `k` rounds to at most `k`. -/
theorem roundInt_le {n d k : Int} (hd : 0 < d) (h : n ≤ k * d) : roundInt n d ≤ k := by
  obtain ⟨hup, -⟩ := nearestAway_roundInt hd n
  by_contra hlt
  have hmul : (k + 1) * d ≤ roundInt n d * d := Int.mul_le_mul_of_nonneg_right (by omega) (by omega)
  rw [Int.add_mul] at hmul
  omega

/-- A quotient of at least `k` rounds to at least `k`. -/
theorem le_roundInt {n d k : Int} (hd : 0 < d) (h : k * d ≤ n) : k ≤ roundInt n d := by
  have hneg := roundInt_le (n := -n) (k := -k) hd (by rw [Int.neg_mul]; omega)
  rw [roundInt_neg hd] at hneg
  omega

/-- The model clamps by comparing, the statements by `max` and `min`. -/
theorem clampInt_eq_max_min {lo hi : Int} (h : lo ≤ hi) (n : Int) : clampInt lo hi n = max lo (min hi n) := by
  unfold clampInt
  split
  · omega
  · split <;> omega

/-! ### The codes, the mean and the corrected code (R123, R125, R126, R129) -/

theorem sum_codes_le (codes : List Half) : (codes.map BitVec.toInt).sum ≤ 32767 * codes.length := by
  have hcode : ∀ x ∈ codes.map BitVec.toInt, x ≤ 32767 := by
    simp only [List.mem_map]
    rintro _ ⟨code, -, rfl⟩
    have := BitVec.toInt_lt (x := code)
    omega
  simpa [mul_comm] using List.sum_le_card_nsmul _ _ hcode

theorem le_sum_codes (codes : List Half) : -32768 * (codes.length : Int) ≤ (codes.map BitVec.toInt).sum := by
  have hcode : ∀ x ∈ codes.map BitVec.toInt, -32768 ≤ x := by
    simp only [List.mem_map]
    rintro _ ⟨code, -, rfl⟩
    have := BitVec.le_toInt code
    omega
  simpa [mul_comm] using List.card_nsmul_le_sum _ _ hcode

/-- The mean of converter codes is within the codes' own bounds. -/
theorem meanCode_bounds {codes : List Half} (h : codes ≠ []) : -32768 ≤ meanCode codes ∧ meanCode codes ≤ 32767 := by
  have hpos : (0 : Int) < codes.length := by exact_mod_cast List.length_pos_iff.2 h
  exact ⟨le_roundInt hpos (le_sum_codes codes), roundInt_le hpos (sum_codes_le codes)⟩

theorem any_clippedCode_iff {codes : List Half} :
    codes.any clippedCode = true ↔ ∃ code ∈ codes, code.toInt = -32768 ∨ code.toInt = 32767 := by
  simp [clippedCode]

theorem corrected_eq (r : CalRec) (m : Int) : corrected r m = max (-32768) (min 32767 (correctedRaw r m)) :=
  clampInt_eq_max_min (by omega) _

theorem corrected_bounds (r : CalRec) (m : Int) : -32768 ≤ corrected r m ∧ corrected r m ≤ 32767 := by
  rw [corrected_eq]; omega

/-- SAT says that the limits changed the corrected code. -/
theorem saturated_iff {r : CalRec} {m : Int} : saturated r m = true ↔ correctedRaw r m ≠ corrected r m := by
  simp only [saturated, Bool.or_eq_true, decide_eq_true_eq, corrected_eq]
  omega

/-! ### The engineering value (R127) -/

theorem Range.fullScale_nonneg (k : Range) : 0 ≤ k.fullScale := by cases k <;> decide

/-- The value of a 16-bit code stays within full scale. -/
theorem engineering_bounds (k : Range) {c : Int} (hlow : -32768 ≤ c) (hhigh : c ≤ 32767) :
    -k.fullScale ≤ engineering k c ∧ engineering k c ≤ k.fullScale := by
  have hfs := k.fullScale_nonneg
  have hbelow : -32768 * k.fullScale ≤ c * k.fullScale := Int.mul_le_mul_of_nonneg_right hlow hfs
  have habove : c * k.fullScale ≤ 32767 * k.fullScale := Int.mul_le_mul_of_nonneg_right hhigh hfs
  exact ⟨le_roundInt (by omega) (by omega), roundInt_le (by omega) (by omega)⟩

/-! ### The limit test (R128) -/

theorem LimitRec.effectiveGuard_eq {l : LimitRec} (h : l.low ≤ l.high) :
    (l.effectiveGuard : Int) = min (l.guard : Int) ((l.high - l.low) / 2) := by
  unfold LimitRec.effectiveGuard
  omega

theorem limitVerdict_eq_error_iff {l : LimitRec} {e : Int} {f : ResultFlags} :
    limitVerdict l e f = .error ↔ f.clipped = true ∨ f.sat = true := by
  unfold limitVerdict
  split
  case isTrue h => simpa using h
  case isFalse h => split <;> [skip; split] <;> simpa using h

/-- The verdict of a value that is neither clipped nor saturated. -/
theorem limitVerdict_of_unflagged {l : LimitRec} {e : Int} {f : ResultFlags} (hc : f.clipped = false)
    (hs : f.sat = false) : limitVerdict l e f =
      if e < l.low ∨ l.high < e then .fail
      else if e < l.low + l.effectiveGuard ∨ l.high - l.effectiveGuard < e then .marginal
      else .pass := by
  simp [limitVerdict, hc, hs]

section Unflagged
variable {l : LimitRec} {e : Int} {f : ResultFlags} (hc : f.clipped = false) (hs : f.sat = false)
include hc hs

theorem limitVerdict_eq_fail_iff : limitVerdict l e f = .fail ↔ e < l.low ∨ l.high < e := by
  rw [limitVerdict_of_unflagged hc hs]
  split
  case isTrue h => simpa using h
  case isFalse h => split <;> simpa using h

theorem limitVerdict_eq_pass_iff : limitVerdict l e f = .pass ↔
    l.low + l.effectiveGuard ≤ e ∧ e ≤ l.high - l.effectiveGuard := by
  rw [limitVerdict_of_unflagged hc hs]
  split
  case isTrue h => simp only [reduceCtorEq, false_iff]; omega
  case isFalse h =>
    split
    case isTrue h => simp only [reduceCtorEq, false_iff]; omega
    case isFalse h => simp only [true_iff]; omega

theorem limitVerdict_eq_marginal_iff (hl : l.low ≤ l.high) : limitVerdict l e f = .marginal ↔
    (l.low ≤ e ∧ e < l.low + l.effectiveGuard) ∨ (l.high - l.effectiveGuard < e ∧ e ≤ l.high) := by
  have hguard := LimitRec.effectiveGuard_eq hl
  rw [limitVerdict_of_unflagged hc hs]
  split
  case isTrue h => simp only [reduceCtorEq, false_iff]; omega
  case isFalse h =>
    split
    case isTrue h => simp only [true_iff]; omega
    case isFalse h => simp only [reduceCtorEq, false_iff]; omega

end Unflagged

/-! ### The requests as they are served -/

section Admitted
variable {r : Req} {s : State}

theorem exec_calWrite_of_admitted (range : Byte) (gain offset : Full) (h : Admitted r .station true s)
    (hl : r.len = 9) : exec (.calWrite r range gain offset) s =
      .next ((calWriteRule r.bay range gain offset s).1.reply r.port (calWriteRule r.bay range gain offset s).2) :=
  serve_fixed _ h (by simp [hl])

theorem exec_calRead_of_admitted (range : Byte) (h : Admitted r .station true s) (hl : r.len = 1) :
    exec (.calRead r range) s = .next ((calReadRule r.bay range s).1.reply r.port (calReadRule r.bay range s).2) :=
  serve_fixed _ h (by simp [hl])

theorem exec_limitWrite_of_admitted (index : Byte) (o : LimitOps) (h : Admitted r .station false s) (hl : r.len = 15) :
    exec (.limitWrite r index o) s =
      .next ((limitWriteRule index o s).1.reply r.port (limitWriteRule index o s).2) :=
  serve_fixed _ h (by simp [hl])

theorem exec_limitRead_of_admitted (index : Byte) (h : Admitted r .station false s) (hl : r.len = 1) :
    exec (.limitRead r index) s = .next ((limitReadRule index s).1.reply r.port (limitReadRule index s).2) :=
  serve_fixed _ h (by simp [hl])

end Admitted

/-! ### Range codes and positions (R130, R207) -/

@[simp] theorem rangeOf_code (k : Range) : rangeOf k.code = some k := by cases k <;> rfl

/-- A byte that no range has as its code names none. -/
theorem rangeOf_eq_none {x : Byte} (h : ∀ k : Range, x ≠ k.code) : rangeOf x = none := by
  have hne : ∀ k : Range, x.toNat ≠ k.code.toNat := fun k hk => h k (BitVec.eq_of_toNat_eq hk)
  unfold rangeOf
  split
  case h_1 hx => exact absurd hx (hne .v2)
  case h_2 hx => exact absurd hx (hne .v20)
  case h_3 hx => exact absurd hx (hne .il)
  case h_4 hx => exact absurd hx (hne .ih)
  case h_5 hx => exact absurd hx (hne .lum)
  case h_6 => rfl

theorem Range.code_injective {k k' : Range} (h : k.code.toNat = k'.code.toNat) : k = k' := by
  have hsome : some k = some k' := by rw [← rangeOf_code k, ← rangeOf_code k', BitVec.eq_of_toNat_eq h]
  exact Option.some.inj hsome

theorem Range.code_lt (k : Range) : k.code.toNat < 5 := by cases k <;> decide

/-- The five records of bay A come before those of bay B, each in the order of the range codes. -/
theorem calPosition_eq (bay : Bay) (k : Range) : calPosition bay k = (if bay = .a then 0 else 5) + k.code.toNat := by
  cases bay <;> cases k <;> rfl

theorem calPosition_eq_iff {bay bay' : Bay} {k k' : Range} :
    calPosition bay k = calPosition bay' k' ↔ bay = bay' ∧ k = k' := by
  refine ⟨fun h => ?_, fun ⟨hbay, hk⟩ => by rw [hbay, hk]⟩
  have hlt := k.code_lt
  have hlt' := k'.code_lt
  rw [calPosition_eq, calPosition_eq] at h
  have hbay : bay = bay' := by
    cases bay <;> cases bay' <;> simp only [reduceCtorEq, if_true, if_false] at h ⊢ <;> omega
  subst hbay
  exact ⟨rfl, Range.code_injective (Nat.add_left_cancel h)⟩

/-! ### CAL WRITE and CAL READ (R131, R133) -/

theorem calRec_write {s : State} (hw : Table.wf {} s.cal.recs) (bay bay' : Bay) (k k' : Range) (x : CalRec) :
    ({ s with cal := { s.cal with recs := Table.write {} s.cal.recs (calPosition bay k) x } } : State).calRec bay' k' =
      if bay' = bay ∧ k' = k then x else s.calRec bay' k' := by
  simp only [State.calRec, Table.read_write hw, calPosition_eq_iff]

/-- The stored record is the operands clamped (R131). -/
theorem storedCal_eq (gain offset : Full) : storedCal gain offset =
    ⟨(max 0 (min 65535 gain.toInt)).toNat, max (-32768) (min 32767 offset.toInt)⟩ := by
  simp only [storedCal, signed, clampInt_eq_max_min (by omega : (0 : Int) ≤ 65535),
    clampInt_eq_max_min (by omega : (-32768 : Int) ≤ 32767)]

theorem calWriteRule_out_of_range {bay : Bay} {range : Byte} {gain offset : Full} {s : State}
    (h : rangeOf range = none) : calWriteRule bay range gain offset s = (s, bare .range) := by
  simp only [calWriteRule, h]

theorem calWriteRule_of_range (bay : Bay) (k : Range) (gain offset : Full) (s : State) :
    calWriteRule bay k.code gain offset s =
      ({ s with cal := { s.cal with recs := Table.write {} s.cal.recs (calPosition bay k) (storedCal gain offset) } },
       okWith (.cal bay k (storedCal gain offset))) := by
  simp only [calWriteRule, rangeOf_code]

theorem calReadRule_out_of_range {bay : Bay} {range : Byte} {s : State} (h : rangeOf range = none) :
    calReadRule bay range s = (s, bare .range) := by
  simp only [calReadRule, h]

theorem calReadRule_of_range (bay : Bay) (k : Range) (s : State) :
    calReadRule bay k.code s = (s, okWith (.calRead bay k (s.calRec bay k) s.cal.uncal)) := by
  simp only [calReadRule, rangeOf_code]

/-! ### LIMIT WRITE (R135, R136) -/

theorem flagOf_iff {x : Byte} : flagOf x = true ↔ x ≠ 0 := decide_eq_true_iff

theorem limit_write {s : State} (hw : Table.wf {} s.limits) (i j : Nat) (x : LimitRec) :
    ({ s with limits := Table.write {} s.limits i x } : State).limit j = if j = i then x else s.limit j :=
  Table.read_write hw i x j

/-- R136 holds a write back exactly where the measurement in flight names the record and the new one does not fit it. -/
theorem limitFree_iff {s : State} {i : Nat} {x : LimitRec} : s.limitFree i x = true ↔
    ∀ q, s.meu.inFlight = some q → q.limit = some i → x.valid = true ∧ q.range = x.range := by
  unfold State.limitFree
  cases s.meu.inFlight with
  | none => simp
  | some q =>
    simp only [Option.some.injEq, forall_eq', Bool.or_eq_true, Bool.and_eq_true, decide_eq_true_eq, ne_eq,
      eq_comm (a := x.range)]
    exact (imp_iff_not_or (a := q.limit = some i)).symm

/-- LIMIT WRITE stores a record that R136 does not hold back, and answers it with its effective guard. -/
def LimitStored (r : Req) (index : Byte) (o : LimitOps) (s : State) (x : LimitRec) : Prop :=
  ∃ t : State, exec (.limitWrite r index o) s = .next (t.reply r.port ⟨.ok, .limit x (some x.effectiveGuard)⟩) ∧
    t = { s with limits := t.limits } ∧ ∀ j, t.limit j = if j = index.toNat then x else s.limit j

section LimitWrite
variable {r : Req} {index : Byte} {o : LimitOps} {s : State} {x : LimitRec}

/-- A write whose checks are passed and that R136 lets through. -/
theorem limitStored_of_free (h : Admitted r .station false s) (hw : Table.wf {} s.limits) (hl : r.len = 15)
    (hput : limitWriteRule index o s = putLimit index.toNat x s) (hfree : s.limitFree index.toNat x = true) :
    LimitStored r index o s x := by
  refine ⟨{ s with limits := Table.write {} s.limits index.toNat x }, ?_, rfl, fun j => limit_write hw _ j x⟩
  rw [exec_limitWrite_of_admitted index o h hl, hput, putLimit, if_pos hfree]
  rfl

/-- A write whose checks are passed and that R136 holds back. -/
theorem exec_limitWrite_of_held (h : Admitted r .station false s) (hl : r.len = 15)
    (hput : limitWriteRule index o s = putLimit index.toNat x s) (hfree : ¬ s.limitFree index.toNat x = true) :
    exec (.limitWrite r index o) s = .next (s.reply r.port ⟨.busy, .none⟩) := by
  rw [exec_limitWrite_of_admitted index o h hl, hput, putLimit, if_neg hfree]
  rfl

theorem limitWriteRule_of_invalid (h : o.valid = 0) : limitWriteRule index o s = putLimit index.toNat {} s := by
  rw [limitWriteRule, if_neg fun hf => flagOf_iff.1 hf h]

theorem limitWriteRule_out_of_range (h : o.valid ≠ 0) (hx : rangeOf o.range = none) :
    limitWriteRule index o s = (s, bare .range) := by
  simp only [limitWriteRule, if_pos (flagOf_iff.2 h), hx]

/-- Bounds in the wrong order are refused whatever the range is. -/
theorem limitWriteRule_of_reversed (h : o.valid ≠ 0) (hx : o.high.toInt < o.low.toInt) :
    limitWriteRule index o s = (s, bare .range) := by
  rw [limitWriteRule, if_pos (flagOf_iff.2 h)]
  split
  · rfl
  · exact if_pos hx

theorem limitWriteRule_of_valid {k : Range} (h : o.valid ≠ 0) (hk : o.range = k.code)
    (hx : o.low.toInt ≤ o.high.toInt) : limitWriteRule index o s = putLimit index.toNat (storedLimit k o) s := by
  simp only [limitWriteRule, if_pos (flagOf_iff.2 h), hk, rangeOf_code]
  exact if_neg (Int.not_lt.2 hx)

theorem storedLimit_eq (k : Range) (o : LimitOps) :
    storedLimit k o = ⟨true, k, o.low.toInt, o.high.toInt, (max 0 o.guard.toInt).toNat⟩ := by
  simp only [storedLimit, signed, LimitRec.mk.injEq, true_and]
  omega

end LimitWrite

/-! ### The statements -/

/-- Settles O44: the rounding of R124 (`nearestAway_roundInt`), the bounds of each stage, and the verdicts of R128. -/
theorem measuredValuesAreJudged : Obligations.MeasuredValuesAreJudged := by
  unfold Obligations.MeasuredValuesAreJudged
  refine ⟨fun n d hd => nearestAway_roundInt hd n, ?value, ?limits⟩
  case value =>
    intro codes k r uncal hne hlen fs mean raw c x
    have hfs : fs = k.fullScale := by cases k <;> rfl
    have hc : c = corrected r mean := (corrected_eq r mean).symm
    have hx : x.1 = engineering k c := by rw [hc]; rfl
    obtain ⟨hmean, hmean'⟩ := meanCode_bounds hne
    obtain ⟨hcl, hch⟩ := corrected_bounds r mean
    obtain ⟨hlow, hhigh⟩ := engineering_bounds k (hc ▸ hcl) (hc ▸ hch)
    have hsum := sum_codes_le codes
    have hsum' := le_sum_codes codes
    have hsat : x.2.sat = true ↔ raw ≠ c := by rw [hc]; exact saturated_iff
    rw [hx, hfs]
    exact ⟨by omega, by omega, hmean', hmean, rfl, hlow, hhigh, any_clippedCode_iff, hsat, rfl⟩
  case limits =>
    intro l e f hl g
    have hg : g = l.effectiveGuard := (LimitRec.effectiveGuard_eq hl).symm
    refine ⟨by omega, by omega, limitVerdict_eq_error_iff, fun hc hs => ?_⟩
    rw [hg]
    exact ⟨limitVerdict_eq_fail_iff hc hs, limitVerdict_eq_pass_iff hc hs, limitVerdict_eq_marginal_iff hc hs hl⟩

/-- Settles O45: the checks of R131 and R133, then those of R135 and R136 in their order, and the report of R137. -/
theorem calibrationAndLimitsAreStored : Obligations.CalibrationAndLimitsAreStored := by
  unfold Obligations.CalibrationAndLimitsAreStored
  intro code
  have hcode : code = Range.code := by funext k; cases k <;> rfl
  clear_value code
  subst hcode
  constructor
  · intro r range gain offset s h hw
    refine ⟨fun hx => ⟨fun hl => ?writeRange, fun hl => ?readRange⟩, ?named⟩
    case writeRange =>
      rw [exec_calWrite_of_admitted _ _ _ h hl, calWriteRule_out_of_range (rangeOf_eq_none hx)]; rfl
    case readRange =>
      rw [exec_calRead_of_admitted _ h hl, calReadRule_out_of_range (rangeOf_eq_none hx)]; rfl
    case named =>
      rintro k rfl x
      have hx : x = storedCal gain offset := (storedCal_eq gain offset).symm
      refine ⟨fun hl => ?write, fun hl => ?read⟩
      case write =>
        rw [exec_calWrite_of_admitted _ _ _ h hl, calWriteRule_of_range, ← hx]
        exact ⟨_, rfl, rfl, fun bay k' => calRec_write hw r.bay bay k k' x⟩
      case read =>
        rw [exec_calRead_of_admitted _ h hl, calReadRule_of_range]; rfl
  · intro r index o s h hw i named guard stored
    refine ⟨fun hl => ⟨fun hv hq => ?heldInvalid, fun hv hq => ?storedInvalid, fun hv hx => ?refused,
      fun hv k hk hx => ?valid⟩, fun hl => ?read⟩
    case heldInvalid =>
      refine exec_limitWrite_of_held h hl (limitWriteRule_of_invalid hv) fun hfree => ?_
      obtain ⟨q, hin, hname⟩ := hq
      exact Bool.false_ne_true (limitFree_iff.1 hfree q hin hname).1
    case storedInvalid =>
      exact limitStored_of_free h hw hl (limitWriteRule_of_invalid hv)
        (limitFree_iff.2 fun q hin hname => absurd ⟨hin, hname⟩ (hq q))
    case refused =>
      have hrule : limitWriteRule index o s = (s, bare .range) := hx.elim
        (fun hr => limitWriteRule_out_of_range hv (rangeOf_eq_none hr)) (limitWriteRule_of_reversed hv)
      rw [exec_limitWrite_of_admitted _ _ h hl, hrule]; rfl
    case valid =>
      have hput := limitWriteRule_of_valid (index := index) (s := s) hv hk hx
      rw [← storedLimit_eq]
      refine ⟨?held, fun hq => ?taken⟩
      case held =>
        rintro ⟨q, ⟨hin, hname⟩, hne⟩
        exact exec_limitWrite_of_held h hl hput fun hfree => hne (limitFree_iff.1 hfree q hin hname).2
      case taken =>
        exact limitStored_of_free h hw hl hput (limitFree_iff.2 fun q hin hname => ⟨rfl, hq q ⟨hin, hname⟩⟩)
    case read =>
      rw [exec_limitRead_of_admitted _ h hl]; rfl

end Sys2Proof.Machine
end

section
/-! The display's cell requests: where the cells of a run lie, what a run writes and reads, what the rules of SET
CURSOR, DISPLAY WRITE, DISPLAY READ, ATTR SET and ATTR CLEAR answer (R157, R164 to R167), and the statement that they
settle. -/

namespace Sys2Proof.Machine

/-! ### The cells of a run (R161, R165) -/

theorem addressSpace_eq (m : Master) : addressSpace m = if m = .ssv then 2048 else 800 := by cases m <;> rfl

theorem regionBase_eq (m : Master) : regionBase m = if m = .bsqB then 800 else 0 := by cases m <;> rfl

theorem addressSpace_ge (m : Master) : 800 ≤ addressSpace m := by cases m <;> decide

/-- A run that does not lap its sender's addressing meets no cell twice. -/
theorem cellOf_injective {m : Master} {a i j : Nat} (hi : i < addressSpace m) (hj : j < addressSpace m)
    (h : cellOf m (a + i) = cellOf m (a + j)) : i = j := by
  have hmod : a + i ≡ a + j [MOD addressSpace m] := Nat.add_left_cancel h
  exact (Nat.ModEq.add_left_cancel' a hmod).eq_of_lt_of_lt hi hj

/-- The first cell of a run is not met again by the rest of it. -/
theorem cellOf_ne_rest {m : Master} {a n : Nat} (hn : n + 1 ≤ addressSpace m) :
    ∀ k, k < n → cellOf m a ≠ cellOf m (a + 1 + k) := by
  intro k hk h
  rw [Nat.add_assoc] at h
  have hzero : 0 = 1 + k := cellOf_injective (a := a) (by omega) (by omega) h
  omega

/-- A cell off a run is off the rest of it. -/
theorem ne_cellOf_rest {m : Master} {a n c : Nat} (h : ∀ k, k < n + 1 → c ≠ cellOf m (a + k)) :
    ∀ k, k < n → c ≠ cellOf m (a + 1 + k) := by
  intro k hk
  rw [Nat.add_assoc, Nat.add_comm 1]
  exact h (k + 1) (Nat.succ_lt_succ hk)

/-! ### One cell (R157) -/

section Cell
variable {o : Odc}

theorem code_setCode (hw : Memory.wf o.codes) (c d : Nat) (x : Byte) :
    (o.setCode c x).code d = if d = c then x else o.code d := Table.read_write hw c x d

theorem wf_setCode (hw : Memory.wf o.codes) (c : Nat) (x : Byte) : Memory.wf (o.setCode c x).codes :=
  Table.wf_write hw c x

theorem attr_setAttr (hw : Table.wf {} o.attrs) (c d : Nat) (y : Attr) :
    (o.setAttr c y).attr d = if d = c then y else o.attr d := Table.read_write hw c y d

theorem wf_setAttr (hw : Table.wf {} o.attrs) (c : Nat) (y : Attr) : Table.wf {} (o.setAttr c y).attrs :=
  Table.wf_write hw c y

end Cell

/-! ### A run of codes (R165, R166) -/

/-- A write of codes keeps all of the display but the codes (R157). -/
theorem writeRun_frame (m : Master) (l : List Byte) (a : Nat) (o : Odc) :
    writeRun m a l o = { o with codes := (writeRun m a l o).codes } := by
  induction l generalizing a o with
  | nil => rfl
  | cons x l ih => exact ih (a + 1) (o.setCode (cellOf m a) x)

theorem code_writeRun_off {m : Master} {l : List Byte} {a : Nat} {o : Odc} {c : Nat} (hw : Memory.wf o.codes)
    (hc : ∀ k, k < l.length → c ≠ cellOf m (a + k)) : (writeRun m a l o).code c = o.code c := by
  induction l generalizing a o with
  | nil => rfl
  | cons x l ih =>
    have hfirst : c ≠ cellOf m a := hc 0 (Nat.succ_pos _)
    calc (writeRun m (a + 1) l (o.setCode (cellOf m a) x)).code c
      _ = (o.setCode (cellOf m a) x).code c := ih (wf_setCode hw _ x) (ne_cellOf_rest hc)
      _ = o.code c := by rw [code_setCode hw, if_neg hfirst]

theorem code_writeRun_cell {m : Master} {l : List Byte} {a k : Nat} {o : Odc} (hw : Memory.wf o.codes)
    (hl : l.length ≤ addressSpace m) (hk : k < l.length) :
    (writeRun m a l o).code (cellOf m (a + k)) = l.getD k 0 := by
  induction l generalizing a o k with
  | nil => exact absurd hk (Nat.not_lt_zero k)
  | cons x l ih =>
    cases k with
    | zero =>
      calc (writeRun m (a + 1) l (o.setCode (cellOf m a) x)).code (cellOf m a)
        _ = (o.setCode (cellOf m a) x).code (cellOf m a) :=
          code_writeRun_off (wf_setCode hw _ x) (cellOf_ne_rest hl)
        _ = x := by rw [code_setCode hw, if_pos rfl]
    | succ k =>
      rw [← Nat.add_assoc, Nat.add_right_comm]
      exact ih (wf_setCode hw _ x) (Nat.le_of_succ_le hl) (Nat.lt_of_succ_lt_succ hk)

theorem readRun_eq_map (m : Master) (o : Odc) (a n : Nat) :
    readRun m o a n = (List.range n).map fun k => o.code (cellOf m (a + k)) := by
  induction n generalizing a with
  | zero => rfl
  | succ n ih =>
    simp only [readRun, ih, List.range_succ_eq_map, List.map_cons, List.map_map, Nat.add_zero, Function.comp_def,
      Nat.succ_eq_add_one, Nat.add_assoc, Nat.add_comm 1]

/-! ### A run of attributes (R167) -/

/-- A write of attributes keeps all of the display but the attributes (R157). -/
theorem attrRun_frame (m : Master) (f : AttrFlag) (v : Bool) (n a : Nat) (o : Odc) :
    attrRun m f v a n o = { o with attrs := (attrRun m f v a n o).attrs } := by
  induction n generalizing a o with
  | zero => rfl
  | succ n ih => exact ih (a + 1) (o.setAttr (cellOf m a) _)

section AttrRun
variable {m : Master} {f : AttrFlag} {v : Bool} {n a : Nat} {o : Odc}

theorem attr_attrRun_off {c : Nat} (hw : Table.wf {} o.attrs) (hc : ∀ k, k < n → c ≠ cellOf m (a + k)) :
    (attrRun m f v a n o).attr c = o.attr c := by
  induction n generalizing a o with
  | zero => rfl
  | succ n ih =>
    have hfirst : c ≠ cellOf m a := hc 0 (Nat.succ_pos _)
    refine (ih (wf_setAttr hw _ _) (ne_cellOf_rest hc)).trans ?_
    rw [attr_setAttr hw, if_neg hfirst]

theorem attr_attrRun_cell {k : Nat} (hw : Table.wf {} o.attrs) (hn : n ≤ addressSpace m) (hk : k < n) :
    (attrRun m f v a n o).attr (cellOf m (a + k)) = (o.attr (cellOf m (a + k))).put f v := by
  induction n generalizing a o k with
  | zero => exact absurd hk (Nat.not_lt_zero k)
  | succ n ih =>
    have hrest := cellOf_ne_rest (a := a) hn
    cases k with
    | zero =>
      refine (attr_attrRun_off (wf_setAttr hw _ _) hrest).trans ?_
      rw [attr_setAttr hw, Nat.add_zero, if_pos rfl]
    | succ k =>
      have hk' : k < n := Nat.lt_of_succ_lt_succ hk
      rw [← Nat.add_assoc, Nat.add_right_comm]
      refine (ih (wf_setAttr hw _ _) (Nat.le_of_succ_le hn) hk').trans ?_
      rw [attr_setAttr hw, if_neg (hrest k hk').symm]

end AttrRun

/-! ### Flag codes (R167, R207) -/

theorem attrFlagOf_eq_none {x : Byte} (h : 3 ≤ x.toNat) : attrFlagOf x = none := by
  unfold attrFlagOf
  split
  case h_4 => rfl
  all_goals omega

/-- A listed flag code names its flag, and to put that flag leaves the other two. -/
theorem attrFlagOf_eq_some {x : Byte} (h : x.toNat < 3) : ∃ f, attrFlagOf x = some f ∧ ∀ (v : Bool) (y : Attr),
    y.put f v = if x = 0 then { y with blink := v } else if x = 1 then { y with inverse := v }
      else { y with underline := v } := by
  have hx : x = 0 ∨ x = 1 ∨ x = 2 := by bv_omega
  rcases hx with rfl | rfl | rfl
  · exact ⟨.blink, rfl, fun _ _ => rfl⟩
  · exact ⟨.inverse, rfl, fun _ _ => rfl⟩
  · exact ⟨.underline, rfl, fun _ _ => rfl⟩

/-! ### The rules, case by case -/

section Rules
variable {m : Master} {s : State}

theorem setCursorRule_out_of_range {address : Half} (h : addressSpace m ≤ address.toNat) :
    setCursorRule m address s = (s, bare .range) := if_neg (Nat.not_lt.2 h)

theorem setCursorRule_of_address {address : Half} (h : address.toNat < addressSpace m) : setCursorRule m address s =
    (s.setAccess m { s.access.get m with cursor := address.toNat }, bare .ok) := if_pos h

theorem displayReadRule_out_of_range {count : Byte} (h : count.toNat = 0 ∨ 64 < count.toNat) :
    displayReadRule m count s = (s, bare .range) := if_pos h

/-- A read of `n + 1` cells answers the latch and the first `n` of them; the last goes into the latch. -/
theorem displayReadRule_of_count {count : Byte} {n : Nat} (hc : count.toNat = n + 1) (hn : n < 64) :
    displayReadRule m count s =
      (s.setAccess m { s.access.get m with
          latch := s.odc.code (cellOf m ((s.access.get m).cursor + n))
          cursor := advance m (s.access.get m).cursor (n + 1) },
       okWith (.codes ((s.access.get m).latch ::
          (List.range n).map fun k => s.odc.code (cellOf m ((s.access.get m).cursor + k)))
         (advance m (s.access.get m).cursor (n + 1)))) := by
  simp only [displayReadRule, hc, ← readRun_eq_map]
  exact if_neg (by omega)

theorem attrRule_out_of_range (v : Bool) {flag count : Byte}
    (h : 3 ≤ flag.toNat ∨ count.toNat = 0 ∨ 64 < count.toNat) : attrRule m v flag count s = (s, bare .range) := by
  rcases h with hflag | hcount
  · simp only [attrRule, attrFlagOf_eq_none hflag]
  · unfold attrRule
    split
    · rfl
    · exact if_pos hcount

theorem attrRule_of_flag (v : Bool) {flag count : Byte} {f : AttrFlag} (hf : attrFlagOf flag = some f)
    (h1 : 1 ≤ count.toNat) (h64 : count.toNat ≤ 64) : attrRule m v flag count s =
      ({ s with odc := attrRun m f v (s.access.get m).cursor count.toNat s.odc }.setAccess m
          { s.access.get m with cursor := advance m (s.access.get m).cursor count.toNat },
       okWith (.cursor (advance m (s.access.get m).cursor count.toNat))) := by
  simp only [attrRule, hf]
  exact if_neg (by omega)

end Rules

/-! ### The requests as they are served -/

section Admitted
variable {r : Req} {s : State}

/-- A display request of a sender with no clear in progress is served by its own rule (R169). -/
theorem serve_of_not_clearing {who : Sender} {fits tagged loading : Bool} (rule : State → State × Answer)
    (h : Admitted r who tagged s) (hc : (s.access.get r.port).clear = none) (hf : fits = true) :
    serve r ⟨who, fits, tagged, loading⟩ (unlessClearing r.port rule) s =
      .next ((rule s).1.reply r.port (rule s).2) := by
  have hrule : unlessClearing r.port rule s = rule s := if_neg (by simp [hc])
  rw [serve_of_admitted _ h hf, hrule]

variable (h : Admitted r .anyPort false s) (hc : (s.access.get r.port).clear = none)
include h hc

theorem exec_setCursor_of_admitted (address : Half) (hl : r.len = 2) : exec (.setCursor r address) s =
    .next ((setCursorRule r.port address s).1.reply r.port (setCursorRule r.port address s).2) :=
  serve_of_not_clearing _ h hc (by simp [hl])

theorem exec_displayWrite_of_admitted {codes : List Byte} (hl : r.len.toNat = codes.length) (h1 : 1 ≤ codes.length)
    (h64 : codes.length ≤ 64) : exec (.displayWrite r codes) s =
      .next ((displayWriteRule r.port codes s).1.reply r.port (displayWriteRule r.port codes s).2) :=
  serve_of_not_clearing _ h hc (by simp [hl, h1, h64])

theorem exec_displayRead_of_admitted (count : Byte) (hl : r.len = 1) : exec (.displayRead r count) s =
    .next ((displayReadRule r.port count s).1.reply r.port (displayReadRule r.port count s).2) :=
  serve_of_not_clearing _ h hc (by simp [hl])

/-- ATTR SET and ATTR CLEAR are one rule with the value to put. -/
theorem exec_attr_of_admitted (v : Bool) (flag count : Byte) (hl : r.len = 2) :
    exec (if v then .attrSet r flag count else .attrClear r flag count) s =
      .next ((attrRule r.port v flag count s).1.reply r.port (attrRule r.port v flag count s).2) := by
  cases v <;> exact serve_of_not_clearing _ h hc (by simp [hl])

end Admitted

/-! ### The statement -/

/-- Settles O47: the rules of R164 to R167 over the lemmas of a run. A run of at most 64 cells does not lap the
addressing of its sender, so each of its cells is written once. -/
theorem cellsAreWrittenAndRead : Obligations.CellsAreWrittenAndRead := by
  unfold Obligations.CellsAreWrittenAndRead
  intro r s h hclear hcodes hattrs m x space cell moved
  have hspace : space = addressSpace m := (addressSpace_eq m).symm
  have hcell : cell = fun k => cellOf m (x.cursor + k) := by
    funext k
    rw [cellOf, regionBase_eq, ← hspace]
  have hmoved : moved = advance m x.cursor := by
    funext n
    rw [advance, ← hspace]
  have hfits : ∀ n, n ≤ 64 → n ≤ addressSpace m := fun n hn => by have := addressSpace_ge m; omega
  clear_value space cell moved
  subst hspace hcell hmoved
  refine ⟨fun address hl => ⟨fun ha => ?setRange, fun ha => ?set⟩, fun codes hl h1 h64 => ?write,
    fun count hl => ⟨fun hn => ?readRange, fun n hn h64 => ?read⟩,
    fun flag count hl => ⟨fun hx => ?attrRange, fun hflag h1 h64 v => ?attr⟩⟩
  case setRange =>
    rw [exec_setCursor_of_admitted h hclear address hl, setCursorRule_out_of_range ha]; rfl
  case set =>
    rw [exec_setCursor_of_admitted h hclear address hl, setCursorRule_of_address ha]; rfl
  case write =>
    refine ⟨_, exec_displayWrite_of_admitted h hclear hl h1 h64, ?_, ?_, ?_⟩
    · exact congrArg (fun o => { s with odc := o }.setAccess m { x with cursor := advance m x.cursor codes.length })
        (writeRun_frame m codes x.cursor s.odc)
    · exact fun k hk => code_writeRun_cell hcodes (hfits _ h64) hk
    · exact fun c hc => code_writeRun_off hcodes hc
  case readRange =>
    rw [exec_displayRead_of_admitted h hclear count hl, displayReadRule_out_of_range hn]; rfl
  case read =>
    rw [exec_displayRead_of_admitted h hclear count hl, displayReadRule_of_count hn h64]; rfl
  case attrRange =>
    have hrefused : ∀ v : Bool, exec (if v then .attrSet r flag count else .attrClear r flag count) s =
        .next (s.reply m ⟨.range, .none⟩) := fun v => by
      rw [exec_attr_of_admitted h hclear v flag count hl, attrRule_out_of_range v hx]; rfl
    exact ⟨hrefused true, hrefused false⟩
  case attr =>
    obtain ⟨f, hf, hput⟩ := attrFlagOf_eq_some hflag
    have hexec := exec_attr_of_admitted h hclear v flag count hl
    rw [attrRule_of_flag v hf h1 h64] at hexec
    refine ⟨_, hexec, ?_, ?_, ?_⟩
    · exact congrArg (fun o => { s with odc := o }.setAccess m { x with cursor := advance m x.cursor count.toNat })
        (attrRun_frame m f v count.toNat x.cursor s.odc)
    · exact fun k hk => (attr_attrRun_cell hattrs (hfits _ h64) hk).trans (hput v _)
    · exact fun c hc => attr_attrRun_off hattrs hc

end Sys2Proof.Machine
end

section
/-! The checks that every request passes before its owner (R194, R206): each command of the code table is served
behind a gate that makes the checks of its row (`exec_request`), and what `serve` does at the first check that fails. -/

namespace Sys2Proof.Machine

/-! ### Gates and rows of the code table (R196, R197) -/

/-- A gate makes the checks of a row of the code table; `early` says whether the request is taken during the load. -/
structure Gate.Checks (g : Gate) (row : Row) (early : Prop) : Prop where
  sender  : g.sender = row.sender
  fits    : g.fits = true ↔ row.fits
  tagged  : g.tagged = true ↔ row.tagged
  loading : g.loading = true ↔ early

theorem Gate.fixed_checks_tagged (who : Sender) (n : Nat) (r : Req) :
    (Gate.fixed who true n r).Checks (.fixed who True n r) False :=
  ⟨rfl, decide_eq_true_iff, by simp [Gate.fixed, Row.fixed], by simp [Gate.fixed]⟩

theorem Gate.fixed_checks_untagged (who : Sender) (n : Nat) (r : Req) :
    (Gate.fixed who false n r).Checks (.fixed who False n r) False :=
  ⟨rfl, decide_eq_true_iff, by simp [Gate.fixed, Row.fixed], by simp [Gate.fixed]⟩

/-- STATUS READ and ATTENTION READ are taken during the load. -/
theorem Gate.early_checks (r : Req) :
    Gate.Checks ⟨.anyPort, r.len.toNat = 0, false, true⟩ (.fixed .anyPort False 0 r) True :=
  ⟨rfl, decide_eq_true_iff, by simp [Row.fixed], by simp⟩

/-- Behind a gate that checks `row` and `early`, `i` is served by a rule of its owner. -/
def ServedBehind (i : Instr) (row : Row) (early : Prop) : Prop :=
  ∃ (g : Gate) (rule : State → State × Answer), g.Checks row early ∧ ∀ s, exec i s = serve row.req g rule s

theorem servedBehind_fixed_tagged {i : Instr} {who : Sender} {n : Nat} {r : Req} {rule : State → State × Answer}
    (h : ∀ s, exec i s = serve r (Gate.fixed who true n r) rule s) :
    ServedBehind i (.fixed who True n r) False := ⟨_, rule, Gate.fixed_checks_tagged who n r, h⟩

theorem servedBehind_fixed_untagged {i : Instr} {who : Sender} {n : Nat} {r : Req} {rule : State → State × Answer}
    (h : ∀ s, exec i s = serve r (Gate.fixed who false n r) rule s) :
    ServedBehind i (.fixed who False n r) False := ⟨_, rule, Gate.fixed_checks_untagged who n r, h⟩

/-- Every command with a row in the code table (R197) is served behind that row's gate. -/
theorem exec_request {i : Instr} {row : Row} (h : requestRow i = some row) :
    ServedBehind i row (takenDuringLoad i) := by
  cases i with
  | statusRead r | attentionRead r => cases h; exact ⟨_, _, Gate.early_checks r, fun _ => rfl⟩
  | clamp | contact | power | finish | unload | abort | release | bayReset | baySetupWrite | baySetupRead | bayRead
  | sourceClaim | sourceFree | setSpeed | setRpm | setFrequency | setDuty | setLevel | routeClose | routeOpen
  | send | netResume | netRead | expect | unexpect | checkResponse | measure | calWrite | calRead | statsRead
  | setWindow | prompt | answerRead | promptRead =>
    cases h; exact servedBehind_fixed_tagged fun _ => rfl
  | noticePost | sourceRead | frameWrite | frameRead | monitorPop | meuClaim | meuRelease | resultRead | meuRead
  | limitWrite | limitRead | logPop | logSetup | setCursor | displayRead | attrSet | attrClear | clearArea
  | stationScreen | glyphLoad | calSave | rackReset =>
    cases h; exact servedBehind_fixed_untagged fun _ => rfl
  | start r o | setPayload r _ _ bytes | displayWrite r codes =>
    cases h; exact ⟨_, _, ⟨rfl, by simp [and_assoc], by simp, by simp [takenDuringLoad]⟩, fun _ => rfl⟩
  | responseRead r selector which =>
    cases h
    exact ⟨_, _, ⟨rfl, decide_eq_true_iff, decide_eq_true_iff, by simp [Gate.fixed, takenDuringLoad]⟩, fun _ => rfl⟩
  | noteStep r _ operand | promptCancel r operand =>
    cases h
    exact ⟨_, _, ⟨rfl, by simp [Option.isSome_iff_ne_none], by simp, by simp [takenDuringLoad]⟩, fun _ => rfl⟩
  | _ => cases h

/-! ### The checks of R194, in their order -/

theorem Sender.permits_iff (who : Sender) (m : Master) :
    who.permits m = true ↔ (who = .station → m = .ssv) ∧ (who = .bayPorts → m ≠ .ssv) := by
  cases who <;> simp [Sender.permits]

section Admission
variable {r : Req} {g : Gate} {s : State}

theorem admission_during_load (h : s.store.state = .loading) (hg : ¬ g.loading = true) :
    admission r g s = some .busy := if_pos ⟨h, hg⟩

variable (hload : s.store.state ≠ .loading ∨ g.loading = true)
include hload

theorem admission_not_permitted (hp : ¬ g.sender.permits r.port = true) : admission r g s = some .denied := by
  rw [admission, if_neg (by tauto), if_pos hp]

variable (hp : g.sender.permits r.port = true)
include hp

theorem admission_length_misfit (hf : ¬ g.fits = true) : admission r g s = some .range := by
  rw [admission, if_neg (by tauto), if_neg (not_not_intro hp), if_pos hf]

variable (hf : g.fits = true)
include hf

theorem admission_no_bay (ht : g.tagged = true) (hm : r.port = .ssv) (hb : bayOfTag r.tag = none) :
    admission r g s = some .range := by
  rw [admission, if_neg (by tauto), if_neg (not_not_intro hp), if_neg (not_not_intro hf), if_pos ⟨ht, hm, hb⟩]

theorem admission_untagged (ht : ¬ g.tagged = true) : admission r g s = none := by
  rw [admission, if_neg (by tauto), if_neg (not_not_intro hp), if_neg (not_not_intro hf), if_neg (by tauto)]

end Admission

/-! ### What `serve` does with the outcome of the checks -/

section Serve
variable {r : Req} {g : Gate} {s : State} (rule : State → State × Answer)

theorem State.listens_iff {m : Master} : s.listens m = true ↔ s.running = true ∧ (s.ports.get m).held = false := by
  simp [State.listens]

/-- A part that does not run and a port held at the release of RSTN take no request (R206). -/
theorem serve_of_not_listening (h : s.running = false ∨ (s.ports.get r.port).held = true) :
    serve r g rule s = .next s := by
  have hl : ¬ s.listens r.port = true := by rw [State.listens_iff]; rintro ⟨h1, h2⟩; simp [h1, h2] at h
  rw [serve, if_neg hl]

variable (hl : s.listens r.port = true)
include hl

theorem serve_of_refused {st : Status} (h : admission r g s = some st) :
    serve r g rule s = .next (s.reply r.port ⟨st, .none⟩) := by
  simp only [serve, hl, h, if_true]; rfl

theorem serve_of_passed (h : admission r g s = none) :
    serve r g rule s = .next ((rule s).1.reply r.port (rule s).2) := by
  simp only [serve, hl, h, if_true]

end Serve

/-! ### The statement -/

/-- Settles O4: the command is served behind its row's gate (`exec_request`), and each clause is the check of that gate
which fails first. -/
theorem admissionChecksInOrder : Obligations.AdmissionChecksInOrder := by
  unfold Obligations.AdmissionChecksInOrder
  intro i row s hrow refused late mine
  obtain ⟨g, rule, ⟨hsender, hfits, htagged, hearly⟩, hexec⟩ := exec_request hrow
  have hlate : late ↔ s.store.state ≠ .loading ∨ g.loading = true := by rw [hearly]
  have hmine : mine ↔ g.sender.permits row.req.port = true := by rw [Sender.permits_iff, hsender]
  refine ⟨fun hdeaf => (hexec s).trans (serve_of_not_listening rule hdeaf), fun hrun hheld => ?_⟩
  have hrefused : ∀ st, admission row.req g s = some st → refused st := fun st hst =>
    (hexec s).trans (serve_of_refused rule (State.listens_iff.2 ⟨hrun, hheld⟩) hst)
  refine ⟨fun hl => ?busy, fun hl hm => ?denied, fun hl hm hf => ?length, fun hl hm hf ht hssv h1 h2 => ?tag⟩
  case busy =>
    obtain ⟨hs, hg⟩ := not_or.1 (mt hlate.2 hl)
    exact hrefused _ (admission_during_load (not_not.1 hs) hg)
  case denied => exact hrefused _ (admission_not_permitted (hlate.1 hl) (mt hmine.2 hm))
  case length => exact hrefused _ (admission_length_misfit (hlate.1 hl) (hmine.1 hm) (mt hfits.1 hf))
  case tag =>
    exact hrefused _ (admission_no_bay (hlate.1 hl) (hmine.1 hm) (hfits.2 hf) (htagged.2 ht) hssv
      (bayOfTag_eq_none.2 ⟨h1, h2⟩))

end Sys2Proof.Machine
end

section
/-! Attention sets and notices: what taking the highest entry leaves of a set (R201, R202), what posting a code leaves of
the notice slots (R203), and the statement on STATUS READ, ATTENTION READ and NOTICE POST that they settle. -/

namespace Sys2Proof.Machine

/-! ### The entries of an attention set (R201) -/

/-- The stored entries of an attention set in delivery order: SAFE, the notices, the other edges. -/
def Attn.delivery (x : Attn) : List AttnEntry :=
  (x.edges.filter fun e => e.cause = .safe).map .edge ++ x.notices.map .notice ++
  (x.edges.filter fun e => e.cause ≠ .safe).map .edge

/-- The level entries of an attention set: the causes that stand, for the station alone (R198, R202). -/
def State.levelEntries (s : State) (m : Master) : List AttnEntry :=
  (if m = .ssv ∧ s.logCause = true then [.log] else []) ++
  (if m = .ssv ∧ s.monitorCause = true then [.monitor] else [])

theorem State.attention_eq (s : State) (m : Master) :
    s.attention m = (s.attn.get m).delivery ++ s.levelEntries m := List.append_assoc _ _ _

theorem Attn.not_level_of_mem_delivery {x : Attn} {e : AttnEntry} (h : e ∈ x.delivery) :
    ¬ (e = .log ∨ e = .monitor) := by
  rintro (rfl | rfl) <;> simp [Attn.delivery] at h

theorem State.level_of_mem_levelEntries {s : State} {m : Master} {e : AttnEntry} (h : e ∈ s.levelEntries m) :
    e = .log ∨ e = .monitor := by
  rcases List.mem_append.1 h with h | h <;> split at h <;> simp_all

/-! ### Taking the highest entry (R202) -/

/-- An edge taken from the head of a part of the set leaves that part's tail. -/
theorem filter_erase_of_head {p : Edge → Bool} {l fs : List Edge} {f : Edge} (h : l.filter p = f :: fs) :
    (l.erase f).filter p = fs := by
  rw [← List.erase_filter, h, List.erase_cons_head]

/-- An edge taken from one part of the set leaves the other part as it is. -/
theorem filter_erase_of_not {p : Edge → Bool} {f : Edge} (l : List Edge) (h : p f = false) :
    (l.erase f).filter p = l.filter p := by
  rw [← List.erase_filter, List.erase_of_not_mem (by simp [h])]

theorem mem_of_filter_eq_cons {p : Edge → Bool} {l fs : List Edge} {f : Edge} (h : l.filter p = f :: fs) :
    p f = true := List.of_mem_filter (h ▸ List.mem_cons_self)

/-- The highest entry of the stored ones leaves them when it is taken: SAFE first, then a notice, then another edge. -/
theorem Attn.delivery_take_head {x : Attn} {e : AttnEntry} {l : List AttnEntry} (h : x.delivery = e :: l) :
    (x.take e).delivery = l := by
  unfold Attn.delivery at h
  cases hsafe : x.edges.filter fun f => f.cause = .safe with
  | cons f fs =>
    have hf := mem_of_filter_eq_cons hsafe
    simp only [hsafe, List.map_cons, List.cons_append] at h
    cases h
    simp only [Attn.take, Attn.delivery, filter_erase_of_head hsafe]
    rw [filter_erase_of_not _ (by simpa using hf)]
  | nil =>
    cases hnotices : x.notices with
    | cons n ns =>
      simp only [hsafe, hnotices, List.map_nil, List.nil_append, List.map_cons, List.cons_append] at h
      cases h
      simp [Attn.take, Attn.delivery, hsafe, hnotices]
    | nil =>
      simp only [hsafe, hnotices, List.map_nil, List.nil_append] at h
      obtain ⟨f, fs, hother, rfl, rfl⟩ := List.map_eq_cons_iff.1 h
      have hf := mem_of_filter_eq_cons hother
      simp only [Attn.take, Attn.delivery, filter_erase_of_head hother, hnotices]
      rw [filter_erase_of_not _ (by simpa using hf), hsafe]
      rfl

theorem Attn.take_level (x : Attn) {e : AttnEntry} (h : e = .log ∨ e = .monitor) : x.take e = x := by
  rcases h with rfl | rfl <;> rfl

/-- The state after ATTENTION READ has returned `e` to `m` (R202). -/
def State.takeEntry (s : State) (m : Master) (e : AttnEntry) : State :=
  { s with attn := s.attn.set m ((s.attn.get m).take e) }

theorem State.attention_takeEntry (s : State) (m : Master) (e : AttnEntry) :
    (s.takeEntry m e).attention m = ((s.attn.get m).take e).delivery ++ s.levelEntries m := by
  rw [State.attention_eq, State.takeEntry, Tri.get_set_self]
  rfl

/-- Of the set, an edge or a notice that was the highest entry is gone; a level entry stays (R202). -/
theorem State.attention_takeEntry_head {s : State} {m : Master} {e : AttnEntry} {l : List AttnEntry}
    (h : s.attention m = e :: l) :
    (s.takeEntry m e).attention m = if e = .log ∨ e = .monitor then e :: l else l := by
  rw [State.attention_takeEntry]
  rw [State.attention_eq] at h
  cases hstored : (s.attn.get m).delivery with
  | cons a stored =>
    simp only [hstored, List.cons_append] at h
    cases h
    rw [Attn.delivery_take_head hstored, if_neg (Attn.not_level_of_mem_delivery (hstored ▸ List.mem_cons_self))]
  | nil =>
    rw [hstored, List.nil_append] at h
    have hlevel := State.level_of_mem_levelEntries (h ▸ List.mem_cons_self)
    rw [Attn.take_level _ hlevel, hstored, List.nil_append, h, if_pos hlevel]

/-- ATTENTION READ of a set that holds something returns its highest entry (R202). -/
theorem attentionReadRule_of_cons {s : State} {m : Master} {e : AttnEntry} {l : List AttnEntry}
    (h : s.attention m = e :: l) : attentionReadRule m s =
      (s.takeEntry m e, okWith (.attention e ((s.takeEntry m e).attention m).length)) := by
  rw [attentionReadRule, h]
  rfl

theorem attentionReadRule_of_nil {s : State} {m : Master} (h : s.attention m = []) :
    attentionReadRule m s = (s, bare .empty) := by
  rw [attentionReadRule, h]

/-! ### Requests that are taken during the load -/

section Early
variable {r : Req} {s : State} (hrun : s.running = true) (hheld : (s.ports.get r.port).held = false) (hl : r.len = 0)
include hrun hheld hl

/-- A request of any port with no operands and no tag, taken in every store state, is its owner's rule. -/
theorem serve_early (rule : State → State × Answer) :
    serve r ⟨.anyPort, r.len.toNat = 0, false, true⟩ rule s = .next ((rule s).1.reply r.port (rule s).2) :=
  serve_of_passed rule (State.listens_iff.2 ⟨hrun, hheld⟩)
    (admission_untagged (.inr rfl) rfl (by simp [hl]) Bool.false_ne_true)

theorem exec_statusRead_of_listening :
    exec (.statusRead r) s = .next (s.reply r.port ⟨.ok, s.status⟩) := serve_early hrun hheld hl statusReadRule

theorem exec_attentionRead_of_listening : exec (.attentionRead r) s =
    .next ((attentionReadRule r.port s).1.reply r.port (attentionReadRule r.port s).2) :=
  serve_early hrun hheld hl (attentionReadRule r.port)

end Early

/-! ### Notice slots (R203) -/

theorem masterOf_eq_some_iff {x : Byte} {m : Master} : masterOf x = some m ↔ x = noticeCode m := by
  constructor
  · intro h
    unfold masterOf at h
    split at h <;> cases h <;> exact BitVec.eq_of_toNat_eq ‹_›
  · rintro rfl
    cases m <;> rfl

section Slots
variable {m : Master} {n : Notice} {l before behind : List Notice}

theorem noticeOf_of_no_slot (h : ∀ k ∈ l, k.sender ≠ m) : noticeOf m l = none := by
  simpa [noticeOf] using h

theorem noticeOf_slot (hn : n.sender = m) (h : ∀ k ∈ before, k.sender ≠ m) :
    noticeOf m (before ++ n :: behind) = some n := by
  have hnone : before.find? (fun k => k.sender = m) = none := noticeOf_of_no_slot h
  simp [noticeOf, List.find?_append, hnone, hn]

theorem mergedOf_slot (code : Byte) (merged : Nat) (h : ∀ k ∈ before, k.sender ≠ m) :
    mergedOf m (before ++ ⟨m, code, merged⟩ :: behind) = merged := by
  rw [mergedOf, noticeOf_slot (n := ⟨m, code, merged⟩) rfl h]
  rfl

/-- An empty slot takes the last place in the order. -/
theorem postNotice_of_no_slot (code : Byte) (h : ∀ k ∈ l, k.sender ≠ m) :
    postNotice m code l = l ++ [⟨m, code, 0⟩] := by
  simp [postNotice, noticeOf_of_no_slot h]

/-- A change to the notices of one sender keeps a list that has none of them. -/
theorem map_of_no_slot (f : Notice → Notice) (h : ∀ k ∈ l, k.sender ≠ m) :
    l.map (fun k => if k.sender = m then f k else k) = l :=
  (List.map_congr_left fun k hk => if_neg (h k hk)).trans (List.map_id l)

/-- A full slot takes the new code, counts the merge and keeps its place. -/
theorem postNotice_of_slot (code : Byte) (hn : n.sender = m) (hb : ∀ k ∈ before, k.sender ≠ m)
    (ha : ∀ k ∈ behind, k.sender ≠ m) :
    postNotice m code (before ++ n :: behind) = before ++ ⟨m, code, bumpTo 255 n.merged⟩ :: behind := by
  rw [postNotice, noticeOf_slot hn hb, Option.isSome_some, if_pos rfl, List.map_append, List.map_cons,
    map_of_no_slot _ hb, map_of_no_slot _ ha, if_pos hn, hn]

end Slots

/-! ### NOTICE POST (R203) -/

section Post
variable {m n : Master} {target code : Byte} {s : State}

theorem noticePostRule_of_no_target (h : ∀ n, n ≠ m → target ≠ noticeCode n) :
    noticePostRule m target code s = (s, bare .range) := by
  unfold noticePostRule
  cases ht : masterOf target with
  | none => rfl
  | some n =>
    have hn : n = m := not_not.1 fun hne => h n hne (masterOf_eq_some_iff.1 ht)
    exact if_pos hn

theorem noticePostRule_of_target (hn : n ≠ m) : noticePostRule m (noticeCode n) code s =
    ({ s with attn := s.attn.set n { s.attn.get n with notices := postNotice m code (s.attn.get n).notices } },
      okWith (.merged (mergedOf m (postNotice m code (s.attn.get n).notices)))) := by
  rw [noticePostRule, masterOf_eq_some_iff.2 rfl]
  exact if_neg hn

theorem exec_noticePost_of_admitted {r : Req} (h : Admitted r .anyPort false s) (hl : r.len = 2) :
    exec (.noticePost r target code) s = .next ((noticePostRule r.port target code s).1.reply r.port
      (noticePostRule r.port target code s).2) := serve_fixed _ h (by simp [hl])

end Post

/-! ### The statement -/

/-- Settles O13: a taken entry by `State.attention_takeEntry_head`, a posted code by `postNotice_of_no_slot` and
`postNotice_of_slot`. -/
theorem attentionAndNoticesAreDelivered : Obligations.AttentionAndNoticesAreDelivered := by
  unfold Obligations.AttentionAndNoticesAreDelivered
  refine ⟨fun r s hrun hheld hl => exec_statusRead_of_listening hrun hheld hl,
    fun r s hrun hheld hl => ⟨fun hnil => ?readEmpty, fun e l hcons => ?read⟩,
    fun r target code s h hl => ⟨fun hno => ?refused, fun m htarget hm => ⟨fun hempty => ?fill, ?merge⟩⟩⟩
  case readEmpty =>
    rw [exec_attentionRead_of_listening hrun hheld hl, attentionReadRule_of_nil hnil]; rfl
  case read =>
    refine ⟨s.takeEntry r.port e, ?_, rfl, State.attention_takeEntry_head hcons, fun m hm => Tri.get_set_ne _ _ hm⟩
    rw [exec_attentionRead_of_listening hrun hheld hl, attentionReadRule_of_cons hcons]; rfl
  case refused =>
    rw [exec_noticePost_of_admitted h hl, noticePostRule_of_no_target hno]; rfl
  case fill =>
    rw [exec_noticePost_of_admitted h hl, htarget, noticePostRule_of_target hm, postNotice_of_no_slot code hempty,
      mergedOf_slot _ _ hempty]
    rfl
  case merge =>
    intro before n behind hsplit hn hothers
    obtain ⟨hbefore, hbehind⟩ := List.forall_mem_append.1 hothers
    rw [exec_noticePost_of_admitted h hl, htarget, noticePostRule_of_target hm, hsplit,
      postNotice_of_slot code hn hbefore hbehind, mergedOf_slot _ _ hbefore]
    rfl

end Sys2Proof.Machine
end
